-- ==== Sys2Proof/Word.lean ====
section
/-! DEFINITION. The two fixed widths of the block: a register of the host port is 32 bits wide
(spec/20_memory.md R52), a stored data register is 8 bits wide (spec/10_state.md R30, R31, R34). -/

namespace Sys2Proof

/-- One register of the host port, and one command word (R52, R70). -/
abbrev Word := BitVec 32

/-- RDATA, CRC, `data` and `sh` (R30, R31, R34). -/
abbrev Byte := BitVec 8

end Sys2Proof
end

