-- ==== Sys2Proof/Machine/CrcUnit.lean ====
section
/-! DEFINITION. The CRC-8 arithmetic of spec/42_crc.md (R140, R144, R145). -/

namespace Sys2Proof.Machine

/-- `crc_step(c, b)`: the Dallas/Maxim CRC-8, least significant bit first (R140). -/
def crcStep (c : Byte) (b : Bool) : Byte :=
  if c.getLsbD 0 ^^ b then (c >>> 1) ^^^ 0x8C#8 else c >>> 1

/-- The first `n` bits of `x` fed in wire order, bit 0 first (R57, R141). -/
def crcBits (c : Byte) (x : Byte) : Nat → Byte
  | 0 => c
  | n + 1 => crcStep (crcBits c x n) (x.getLsbD n)

/-- `crc_byte(c, x)` (R144). -/
def crcByte (c x : Byte) : Byte := crcBits c x 8

/-- A message fed byte by byte, the first byte first (R145). -/
def crcBytes (c : Byte) (m : List Byte) : Byte := m.foldl crcByte c

end Sys2Proof.Machine
end

