-- ==== Sys2Proof/Syntax.lean ====
section
/-! DEFINITION. The six commands of spec/opcode_table.json and spec/30_encoding.md R75. There is exactly one
command format (R70), so every command carries the two operand fields of that format, DATA and CRCEN.
A field that R77 lists as ignored for a command is carried too, because R99 latches DATA whole at
acceptance (`s'.data <- v[15:8]`). No rule reads it afterwards, and `Instr.canon` (WellFormed.lean) drops it
(notes/assumptions/3.md). -/

namespace Sys2Proof

/-- One command word that is legal by R76, its fields taken apart (R70, R75). -/
inductive Instr where
  /-- OP 0x1 (R103). DATA and CRCEN are ignored. -/
  | reset (data : Byte) (crcen : Bool)
  /-- OP 0x2 (R106). The bit sent is DATA bit 0, which is command bit 8; DATA bits 7:1 are ignored. -/
  | wrbit (data : Byte) (crcen : Bool)
  /-- OP 0x3 (R108). DATA is ignored. -/
  | rdbit (data : Byte) (crcen : Bool)
  /-- OP 0x4 (R131). DATA is the byte sent. -/
  | wrbyte (data : Byte) (crcen : Bool)
  /-- OP 0x5 (R133). DATA is ignored. -/
  | rdbyte (data : Byte) (crcen : Bool)
  /-- OP 0x6 (R142). DATA and CRCEN are ignored. -/
  | crcclr (data : Byte) (crcen : Bool)
  deriving DecidableEq, Repr

end Sys2Proof
end

