-- ==== Sys2Proof/WellFormed.lean ====
section
/-! DEFINITION. The canonical form of a command: "the assembler writes every ignored bit as 0"
(spec/30_encoding.md R77, R79). A command with ignored bits set is legal and runs (R76); it is only not the
spelling the assembler gives. -/

namespace Sys2Proof

/-- The command with every bit R77 calls ignored set to 0 (R77, R79). -/
def Instr.canon : Instr → Instr
  | .reset _ _ => .reset 0 false
  | .wrbit d c => .wrbit (d &&& 1) c
  | .rdbit _ c => .rdbit 0 c
  | .wrbyte d c => .wrbyte d c
  | .rdbyte _ c => .rdbyte 0 c
  | .crcclr _ _ => .crcclr 0 false

/-- A command is well formed when its ignored bits are 0, as the assembler writes it (R79). -/
def Instr.wellFormed : Instr → Bool
  | .reset d c => d == 0 && !c
  | .wrbit d _ => d &&& 0xFE == 0
  | .rdbit d _ => d == 0
  | .wrbyte _ _ => true
  | .rdbyte d _ => d == 0
  | .crcclr d c => d == 0 && !c

end Sys2Proof
end

