-- ==== Sys2Proof/Decode.lean ====
section
/-! DEFINITION. The command word of spec/30_encoding.md: its fields (R70), the legality test (R76), the decoder,
the encoder, and the assembler's lines (R79). A command is one whole 32-bit word written to CMD (R78), so there
is no byte order to decide here (spec/20_memory.md R58, R62). -/

namespace Sys2Proof

/-- RSVD_HI, bits 31:16 (R70). -/
def rsvdHi (v : Word) : BitVec 16 := v.extractLsb' 16 16

/-- DATA, bits 15:8 (R70, R73). -/
def dataField (v : Word) : Byte := v.extractLsb' 8 8

/-- RSVD_LO, bits 7:5 (R70). -/
def rsvdLo (v : Word) : BitVec 3 := v.extractLsb' 5 3

/-- CRCEN, bit 4 (R70, R72). -/
def crcenField (v : Word) : Bool := v.getLsbD 4

/-- OP, bits 3:0 (R70, R71). -/
def opField (v : Word) : BitVec 4 := v.extractLsb' 0 4

/-- `legal(v)`, word for word as R76 gives it. -/
def legal (v : Word) : Bool :=
  rsvdHi v == 0 && rsvdLo v == 0 && (decide (1 ≤ (opField v).toNat) && decide ((opField v).toNat ≤ 6))

/-- Why a word is no command (R74, R76). The block itself tells the host only STATUS.ILL. -/
inductive DecodeError where
  /-- a bit of 31:16 is set (R74) -/
  | reservedHigh
  /-- a bit of 7:5 is set (R74) -/
  | reservedLow
  /-- OP is 0 or in 7 to 15 (R71, R75) -/
  | reservedOp
  deriving DecidableEq, Repr

/-- The decoder: total on every word, an illegal word refused by name (R75, R76). -/
def decode (v : Word) : Except DecodeError Instr :=
  if rsvdHi v ≠ 0 then .error .reservedHigh
  else if rsvdLo v ≠ 0 then .error .reservedLow
  else match (opField v).toNat with
    | 1 => .ok (.reset (dataField v) (crcenField v))
    | 2 => .ok (.wrbit (dataField v) (crcenField v))
    | 3 => .ok (.rdbit (dataField v) (crcenField v))
    | 4 => .ok (.wrbyte (dataField v) (crcenField v))
    | 5 => .ok (.rdbyte (dataField v) (crcenField v))
    | 6 => .ok (.crcclr (dataField v) (crcenField v))
    | _ => .error .reservedOp

/-- OP of a command (R75). -/
def Instr.op : Instr → BitVec 4
  | .reset _ _ => 1
  | .wrbit _ _ => 2
  | .rdbit _ _ => 3
  | .wrbyte _ _ => 4
  | .rdbyte _ _ => 5
  | .crcclr _ _ => 6

/-- The DATA field a command carries (R73). -/
def Instr.data : Instr → Byte
  | .reset d _ => d
  | .wrbit d _ => d
  | .rdbit d _ => d
  | .wrbyte d _ => d
  | .rdbyte d _ => d
  | .crcclr d _ => d

/-- The CRCEN field a command carries (R72). -/
def Instr.crcen : Instr → Bool
  | .reset _ c => c
  | .wrbit _ c => c
  | .rdbit _ c => c
  | .wrbyte _ c => c
  | .rdbyte _ c => c
  | .crcclr _ c => c

/-- The word of a command: the diagram of R70, high bit on the left. -/
def encode (i : Instr) : Word :=
  (0#16) ++ (i.data ++ ((0#3) ++ (BitVec.ofBool i.crcen ++ i.op)))

/-- A table word as spec/opcode_table.json numbers it: one word of 32 bits (R78). -/
def decodeTableWord (nbits w : Nat) : Option Instr :=
  match decode (BitVec.ofNat 32 (w % 2 ^ nbits)) with
  | .ok i => some i
  | .error _ => none

/-- A line of the assembler (R79): mnemonic, the `.C` suffix, and the operand as it was written. -/
inductive AsmLine where
  | reset
  | crcclr
  | wrbit (c : Bool) (b : Nat)
  | rdbit (c : Bool)
  | wrbyte (c : Bool) (imm8 : Nat)
  | rdbyte (c : Bool)
  deriving DecidableEq, Repr

/-- The command of a line. "An operand outside its range is refused by the assembler." (R79) -/
def AsmLine.assemble : AsmLine → Option Instr
  | .reset => some (.reset 0 false)
  | .crcclr => some (.crcclr 0 false)
  | .wrbit c b => if b ≤ 1 then some (.wrbit (BitVec.ofNat 8 b) c) else none
  | .rdbit c => some (.rdbit 0 c)
  | .wrbyte c x => if x ≤ 255 then some (.wrbyte (BitVec.ofNat 8 x) c) else none
  | .rdbyte c => some (.rdbyte 0 c)

/-- `enc`: the canonical word of a line (R79). -/
def AsmLine.enc (l : AsmLine) : Option Word := l.assemble.map encode

/-- What a disassembler shows for a word (R79). -/
inductive Shown where
  /-- a legal word, under its mnemonic, the ignored bits dropped -/
  | line (l : AsmLine)
  /-- an illegal word, as `.word <hex>` -/
  | word (v : Word)
  deriving DecidableEq, Repr

/-- The line a legal command is shown as, its ignored bits dropped (R77, R79). -/
def Instr.asmLine : Instr → AsmLine
  | .reset _ _ => .reset
  | .wrbit d c => .wrbit c (d.getLsbD 0).toNat
  | .rdbit _ c => .rdbit c
  | .wrbyte d c => .wrbyte c d.toNat
  | .rdbyte _ c => .rdbyte c
  | .crcclr _ _ => .crcclr

/-- The disassembler (R79). -/
def disassemble (v : Word) : Shown :=
  match decode v with
  | .ok i => .line i.asmLine
  | .error _ => .word v

end Sys2Proof
end

