-- ==== Sys2Proof/Config.lean ====
section
/-! DEFINITION. The implementation parameters of spec/00_scope.md R7 and the timing-set record of R8.
A model takes the parameters as arguments; here they are the record `Config`, which a state carries and
no step changes (notes/assumptions/1.md). What the spec leaves OPEN for the machine after reset is a
constant with no body, so no proof can see its value (notes/assumptions/2.md). -/

namespace Sys2Proof

/-- A timing set: ten durations in whole microseconds (R8). -/
structure TimingSet where
  /-- write-1 low -/
  w1L : Nat
  /-- write-1 released -/
  w1H : Nat
  /-- write-0 low -/
  w0L : Nat
  /-- write-0 released -/
  w0H : Nat
  /-- read low -/
  rL : Nat
  /-- read settle before the sample -/
  rS : Nat
  /-- read tail after the sample -/
  rT : Nat
  /-- reset low -/
  rstL : Nat
  /-- presence sample delay -/
  pds : Nat
  /-- reset settle after the sample -/
  rstS : Nat
  deriving DecidableEq, Repr, Inhabited

/-- The parameters of R7. `T_STD` is fixed and stands in Machine/Timing.lean as `tStd`. -/
structure Config where
  /-- `K`: clock cycles per microsecond -/
  k : Nat
  /-- `SYNC`: synchroniser flip-flops on the line input -/
  syncStages : Nat
  /-- `OD_SUPPORTED`: whether CTRL.SPEED can hold 1 -/
  odSupported : Bool
  /-- `T_OD`: the overdrive timing set, used only when `odSupported` -/
  tOd : TimingSet
  /-- `BASE`: platform address of register index 0 -/
  base : Nat
  /-- `UW`: width in bits of the microsecond counter -/
  uw : Nat
  deriving DecidableEq, Repr

/-- OPEN `K` of the machine after reset, less one (R7: `K >= 1` and no more). FREE VALUE. -/
opaque Config.clockCyclesLessOne : Nat

/-- OPEN `T_OD` of the machine after reset (R7). FREE VALUE. -/
opaque Config.overdriveSet : TimingSet

/-- OPEN `BASE` of the machine after reset (R7). FREE VALUE. -/
opaque Config.baseAddress : Nat

/-- The bus environment's draw at the edge with the given number, wherever a state schedules no draw
itself (spec/10_state.md R41: "free at every edge", "never ... a value the model picks"). FREE VALUE. -/
opaque Config.slaveDraw : Nat → Bool

/-- The parameters of the machine after reset: the spec's own defaults where it names one
(`SYNC` 2, `OD_SUPPORTED` false, `UW` 9 for `T_STD` alone), the free constants where R7 says OPEN. -/
def Config.chip : Config where
  k := Config.clockCyclesLessOne + 1
  syncStages := 2
  odSupported := false
  tOd := Config.overdriveSet
  base := Config.baseAddress
  uw := 9

end Sys2Proof
end

