-- ==== Sys2Proof/Machine/HostMoves.lean ====
section
/-! DEFINITION. What the host can present to the block: one access of the port per cycle (spec/20_memory.md R51), and
the moves of a host program (spec/30_encoding.md R80,
R81). A platform that reaches the block at byte addresses
(R52, R61) is one more move, so that the accesses a model refuses can be written down. -/

namespace Sys2Proof.Machine

/-- The `acc` port in one cycle (R36, R51). An index is in 0..7 and a value is 32 bits by type. -/
inductive Access where
  | none
  | read (i : Fin 8)
  | write (i : Fin 8) (v : Word)
  deriving DecidableEq, Repr

/-- The direction of a platform access. -/
inductive BusOp where
  /-- a read whose value the host binds to a name -/
  | read (name : String)
  | write (v : Word)
  deriving DecidableEq, Repr

/-- One access of a byte-addressed platform: `bytes` bytes from byte address `addr` (R52). -/
structure BusAccess where
  addr : Nat
  bytes : Nat
  op : BusOp
  deriving DecidableEq, Repr

/-- One move of a host program (R80). `C <command>` is `write 0 (enc command)`. -/
inductive HostMove where
  /-- `W <reg>, <value>` -/
  | write (i : Fin 8) (v : Word)
  /-- `R <reg> -> <name>` -/
  | read (i : Fin 8) (name : String)
  /-- `R <reg>`, the read with no name: it binds nothing (notes/assumptions/16.md) -/
  | look (i : Fin 8)
  /-- `R <reg> -> <t>; <name> = <t>[hi:lo]`, the read in which some pseudo-instructions end: the word is bound to `t`
  and its bits hi..lo to `name` (R81) -/
  | readPart (i : Fin 8) (t name : String) (hi lo : Nat)
  /-- `POLL`: repeat `R STATUS` until bit 0 is 0 -/
  | poll
  /-- `IDLE <n>`: n cycles with no access -/
  | idle (n : Nat)
  /-- the accesses a byte-addressed platform issues in one cycle (R51, R52, R61) -/
  | bus (accs : List BusAccess)
  deriving DecidableEq, Repr

end Sys2Proof.Machine
end

