-- ==== Sys2Proof/Machine/State.lean ====
section
/-! DEFINITION. Everything spec/10_state.md gives the block (R22 to R34), the reset values of its reset columns, and the
two agents that present inputs to it, the host and the bus environment (spec/00_scope.md R13), held as plain data.
The block has no general registers, no program counter and no memory (R20, R21, R50). -/

namespace Sys2Proof.Machine

/-- `phase` (R34, R94). -/
inductive Phase where
  | idle | rstL | rstW | rstS | wL | wH | rL | rS | rT
  deriving DecidableEq, Repr

/-- `op`, the command in progress (R34). -/
inductive Op where
  | none | reset | wrbit | rdbit | wrbyte | rdbyte
  deriving DecidableEq, Repr

/-- Why a step stops with a fault: never. "The block has no trap mechanism ... an event never stops or alters a
running command" (spec/60_exceptions.md R155). -/
inductive Fault where
  deriving DecidableEq, Repr

/-- Why the model refuses a step. Each is a refusal the spec itself asks of a model; all are safe. -/
inductive Refusal where
  /-- Raised by no meaning: the name under which an arm of `exec` without a meaning answers. Safe. -/
  | notModelled (mnemonic : String)
  /-- Raised by `step` when the parameters break R9: "A model refuses a configuration that breaks any of these
  constraints." Safe. -/
  | illegalConfig
  /-- Raised by `step` for two platform accesses to the block in one cycle: "outside the model, and a model refuses
  it" (R51). Safe. -/
  | simultaneousAccess
  /-- Raised by `step` for a platform access to the block that is not 32 bits wide: "a model refuses it" (R52). Safe. -/
  | narrowOrWideAccess
  /-- Raised by `step` for a misaligned platform access to the block: "a model refuses it" (R52). Safe. -/
  | misalignedAccess
  deriving DecidableEq, Repr

/-- The stored bits that the engine and an accepted command write: the hidden state of R34 but the synchroniser, and
the three result registers. -/
structure Engine where
  /-- STATUS.PPD (R26) -/
  ppd : Bool
  /-- RDATA, bits 7:0 (R30) -/
  rdata : Byte
  /-- the CRC register, bits 7:0 (R31) -/
  crc : Byte
  /-- current phase (R34) -/
  phase : Phase
  /-- the command in progress; meaningful only while `phase` is not idle (R34) -/
  op : Op
  /-- CRC-accumulate flag latched from CMD[4] (R34) -/
  crcen : Bool
  /-- timing mode latched from CTRL.SPEED at acceptance (R34) -/
  spd : Bool
  /-- write data latched from CMD[15:8] (R34) -/
  data : Byte
  /-- index of the current slot within a byte command (R34) -/
  bitIdx : Fin 8
  /-- read shift register (R34) -/
  sh : Byte
  /-- line level captured by the last sample, true for high (R34) -/
  smp : Bool
  /-- prescaler count within the current microsecond, 0..K-1 (R34) -/
  pre : Nat
  /-- microseconds left in the current phase, counting the current one, a `UW`-bit unsigned (R34) -/
  us : Nat
  /-- true while the master pulls the line low (R34) -/
  drive : Bool
  deriving DecidableEq, Repr

/-- What stands outside the block: the host's remaining moves and what it has bound (R80), and the levels the reset
input and the slaves will present at the coming edges (R39). MODEL'S OWN (notes/assumptions/4.md, 5.md, 6.md). -/
structure Surroundings where
  /-- the host's remaining moves, the current cycle's first; none left means no access -/
  host : List HostMove
  /-- the values the host has bound by `R <reg> -> <name>`, newest first -/
  binds : List (String × Word)
  /-- the `rst` levels of the coming edges, the next edge's first; none left means not asserted -/
  rstIn : List Bool
  /-- the slave draws of the coming edges, the next edge's first; none left means `Config.slaveDraw` -/
  slvIn : List Bool
  /-- the number of the next edge, which the free draw is applied to -/
  cycle : Nat
  deriving DecidableEq, Repr

/-- The state of the machine between two edges. -/
structure State extends Engine, Surroundings where
  /-- STATUS.ILL (R28) -/
  ill : Bool
  /-- STATUS.OVR (R29) -/
  ovr : Bool
  /-- CTRL.SPEED (R32) -/
  speed : Bool
  /-- the parameters of the block (spec/00_scope.md R7); no step changes them -/
  cfg : Config
  /-- input synchroniser stages, `sync[0]` first, true for high (R34) -/
  sync : List Bool
  deriving DecidableEq, Repr

/-- The reset columns of R24, R30, R31 and R34. -/
def Engine.reset : Engine where
  ppd := false
  rdata := 0
  crc := 0
  phase := .idle
  op := .none
  crcen := false
  spd := false
  data := 0
  bitIdx := 0
  sh := 0
  smp := false
  pre := 0
  us := 0
  drive := false

/-- No host move, no binding and no scheduled level. -/
def Surroundings.quiet : Surroundings where
  host := []
  binds := []
  rstIn := []
  slvIn := []
  cycle := 0

/-- `RESET_STATE` (spec/70_reset_and_hazards.md R170) of a block with the given parameters and surroundings. -/
def State.resetOf (cfg : Config) (sur : Surroundings) : State where
  toEngine := Engine.reset
  toSurroundings := sur
  ill := false
  ovr := false
  speed := false
  cfg := cfg
  sync := List.replicate cfg.syncStages true

/-- The machine right after reset (R170, R173). -/
def State.reset : State := State.resetOf Config.chip Surroundings.quiet

end Sys2Proof.Machine
end

