-- ==== Sys2Proof/Machine/Timing.lean ====
section
/-! DEFINITION. The timing sets (spec/00_scope.md R8), the constraints on parameters (R9), and the drive value and
duration of each phase (spec/40_timing_engine.md R94, R95). -/

namespace Sys2Proof.Machine

/-- `T_STD`: "must be reproduced exactly" (R8). -/
def tStd : TimingSet where
  w1L := 6
  w1H := 64
  w0L := 60
  w0H := 10
  rL := 6
  rS := 3
  rT := 55
  rstL := 480
  pds := 70
  rstS := 410

/-- The timing set of a mode: `T_OD` for 1, `T_STD` for 0 (R95). -/
def timing (cfg : Config) (spd : Bool) : TimingSet := if spd then cfg.tOd else tStd

/-- The ten durations of a set (R8). -/
def durations (T : TimingSet) : List Nat :=
  [T.w1L, T.w1H, T.w0L, T.w0H, T.rL, T.rS, T.rT, T.rstL, T.pds, T.rstS]

/-- The largest duration of a set (R35). -/
def maxDuration (T : TimingSet) : Nat := (durations T).foldl max 0

/-- R9 for one timing set in use, and R7's demand that `UW` hold its largest duration. `SYNC <= T.rS*K - 1` is
written `SYNC < T.rS*K`, which is the same of integers. -/
def timingLegal (cfg : Config) (T : TimingSet) : Bool :=
  (durations T).all (fun d => decide (1 ≤ d) && decide (d < 2 ^ cfg.uw))
    && (decide (cfg.syncStages < T.rS * cfg.k) && decide (cfg.syncStages < T.pds * cfg.k))

/-- The constraints of R9. `T_OD` is in use only when `OD_SUPPORTED` (R7). -/
def configLegal (cfg : Config) : Bool :=
  decide (1 ≤ cfg.k) && (timingLegal cfg tStd && (!cfg.odSupported || timingLegal cfg cfg.tOd))

/-- `drv(P)`: the drive value of a phase (R94). -/
def drv : Phase → Bool
  | .idle => false
  | .rstL => true
  | .rstW => false
  | .rstS => false
  | .wL => true
  | .wH => false
  | .rL => true
  | .rS => false
  | .rT => false

/-- `dur(P, b, T)`: the duration of a phase in microseconds (R94). `IDLE` has none; `finish` leaves `us` at 0. -/
def dur (P : Phase) (b : Bool) (T : TimingSet) : Nat :=
  match P with
  | .idle => 0
  | .rstL => T.rstL
  | .rstW => T.pds
  | .rstS => T.rstS
  | .wL => if b then T.w1L else T.w0L
  | .wH => if b then T.w1H else T.w0H
  | .rL => T.rL
  | .rS => T.rS
  | .rT => T.rT

/-- `S(b)`: the length of a write slot (spec/41_byte_codec.md R132). -/
def writeSlotUs (T : TimingSet) (b : Bool) : Nat := if b then T.w1L + T.w1H else T.w0L + T.w0H

/-- The length of a read slot (R109). -/
def readSlotUs (T : TimingSet) : Nat := T.rL + T.rS + T.rT

/-- Where write slot `j` of byte `x` starts, in microseconds from the acceptance edge (R132). -/
def writeSlotStart (T : TimingSet) (x : Byte) : Nat → Nat
  | 0 => 0
  | j + 1 => writeSlotStart T x j + writeSlotUs T (x.getLsbD j)

/-- The duration of a command from its acceptance edge to its finish edge (spec/70_reset_and_hazards.md R182). -/
def commandUs (T : TimingSet) : Instr → Nat
  | .reset _ _ => T.rstL + T.pds + T.rstS
  | .wrbit d _ => writeSlotUs T (d.getLsbD 0)
  | .rdbit _ _ => readSlotUs T
  | .wrbyte d _ => writeSlotStart T d 8
  | .rdbyte _ _ => 8 * readSlotUs T
  | .crcclr _ _ => 0

end Sys2Proof.Machine
end

