-- ==== Sys2Proof/Machine/Flags.lean ====
section
/-! DEFINITION. The STATUS register's fields, the events of the block and how they are cleared
(spec/10_state.md R24 to R29, spec/60_exceptions.md R150 to R156). The block takes no exception: `flag` is the whole
effect of an event (R155). -/

namespace Sys2Proof.Machine

/-- STATUS.BUSY: `phase != IDLE` (R25). -/
def Engine.busy (e : Engine) : Bool := e.phase != .idle

/-- STATUS.CRCOK: `CRC == 0x00`, read live (R27, R143). -/
def Engine.crcOk (e : Engine) : Bool := e.crc == 0

/-- STATUS.BUSY of a state (R25). -/
def State.busy (s : State) : Bool := s.toEngine.busy

/-- STATUS.CRCOK of a state (R27). -/
def State.crcOk (s : State) : Bool := s.toEngine.crcOk

/-- `zext_32({OVR, ILL, CRCOK, PPD, BUSY})` (R24, R53). -/
def State.status (s : State) : Word :=
  (BitVec.ofBool s.ovr ++ (BitVec.ofBool s.ill ++ (BitVec.ofBool s.crcOk ++
    (BitVec.ofBool s.ppd ++ BitVec.ofBool s.busy)))).setWidth 32

/-- The two events that `flag` sets a sticky bit for (R150). -/
inductive Event where
  /-- an illegal command word written while idle (R151) -/
  | ill
  /-- a command word written while busy (R152) -/
  | ovr
  deriving DecidableEq, Repr

/-- The event's STATUS bit (R150). -/
def Event.code : Event → Nat
  | .ill => 3
  | .ovr => 4

/-- `flag <Event>`: sets the sticky STATUS bit, and nothing else changes (R150, R151, R152, R155). A second event
leaves the bit set; no count is kept (R156). -/
def State.flag (ev : Event) (s : State) : State :=
  match ev with
  | .ill => { s with ill := true }
  | .ovr => { s with ovr := true }

/-- A STATUS write, "the counterpart of a trap return": clears ILL where `v[3] = 1` and OVR where `v[4] = 1`; the
other bits are ignored (R54, R156). -/
def State.clearFlags (v : Word) (s : State) : State :=
  { s with ill := s.ill && !v.getLsbD 3, ovr := s.ovr && !v.getLsbD 4 }

/-- BusEmpty as a STATUS word read after a RESET reports it: PPD is 0 (R150, R153). -/
def busEmpty (status : Word) : Bool := !status.getLsbD 1

/-- CRC mismatch as a STATUS word reports it: CRCOK is 0 (R146, R150). -/
def crcMismatch (status : Word) : Bool := !status.getLsbD 2

end Sys2Proof.Machine
end

