-- ==== Sys2Proof/Machine/Operands.lean ====
section
/-! DEFINITION. The operands of a command and how the engine takes them (spec/30_encoding.md R72, R73;
spec/40_timing_engine.md R97, R99). "The bits are taken as they stand" (R73). -/

namespace Sys2Proof.Machine

/-- The bit WRBIT sends, and the first bit WRBYTE sends: command bit 8, which is DATA bit 0 (R73, R99, R106). -/
def firstBit (data : Byte) : Bool := data.getLsbD 0

/-- The bit slot `j` of a write command sends: DATA bit `j` (R73, R131). -/
def slotBit (data : Byte) (j : Fin 8) : Bool := data.getLsbD j.val

/-- The bits of a byte in transmission order, bit 0 first (R57, R85). -/
def wireBits (x : Byte) : List Bool := (List.range 8).map x.getLsbD

/-- `{x, sh[7:1]}`: the bit shifted in from the top, the low bit discarded (R97, R111). -/
def shiftIn (x : Bool) (sh : Byte) : Byte := BitVec.ofBool x ++ sh.extractLsb' 1 7

/-- `zext_8(bit)` (R30, R97). -/
def bitToByte (x : Bool) : Byte := (BitVec.ofBool x).setWidth 8

/-- `bitIdx + 1`, taken only when `bitIdx < 7`, so it never wraps (R97, R111). -/
def nextIdx (j : Fin 8) : Fin 8 := j + 1

/-- What CTRL.SPEED takes from a written word: `OD_SUPPORTED ? v[0] : 0` (R32). -/
def speedFrom (cfg : Config) (v : Word) : Bool := cfg.odSupported && v.getLsbD 0

end Sys2Proof.Machine
end

