-- ==== Sys2Proof/Machine/Ops.lean ====
section
/-! DEFINITION. The shared operations of the block: the primitives `enter`, `finish` and the slot end
(spec/40_timing_engine.md R96 to R98), command acceptance (R99), the bus line and the synchroniser
(spec/10_state.md R37 to R40, R92), block reset (spec/70_reset_and_hazards.md R170), and the register port's reads and
plain writes (spec/20_memory.md R53, R54). A right side reads the state before the edge only (spec/00_scope.md R11). -/

namespace Sys2Proof.Machine

/-- `enter(P, b, T)` (R96). -/
def Engine.enter (P : Phase) (b : Bool) (T : TimingSet) (e : Engine) : Engine :=
  { e with phase := P, us := dur P b T, pre := 0, drive := drv P }

/-- `finish()` (R98). -/
def Engine.finish (e : Engine) : Engine :=
  { e with phase := .idle, drive := false, pre := 0, us := 0 }

/-- Whether the command reads bits into `sh` (R97). -/
def Op.reads : Op → Bool
  | .rdbit => true
  | .rdbyte => true
  | _ => false

/-- Whether the command is a byte command, of eight slots (R97, R130). -/
def Op.isByte : Op → Bool
  | .wrbyte => true
  | .rdbyte => true
  | _ => false

/-- The slot's data bit fed to the CRC register, when the command has `crcen` (R97, R141). -/
def Engine.feedCrc (x : Bool) (e : Engine) : Engine :=
  { e with crc := if e.crcen then crcStep e.crc x else e.crc }

/-- The slot's data bit shifted into `sh`, when the command reads (R97, R135). -/
def Engine.feedShift (x : Bool) (e : Engine) : Engine :=
  { e with sh := if e.op.reads then shiftIn x e.sh else e.sh }

/-- The result a read command publishes at its finish edge; other commands leave RDATA (R30, R97). -/
def Engine.publish (x : Bool) (e : Engine) : Engine :=
  { e with rdata := match e.op with
      | .rdbit => bitToByte x
      | .rdbyte => shiftIn x e.sh
      | _ => e.rdata }

/-- The next slot of a byte command, entered at the edge its predecessor ends (R97, R130). -/
def Engine.nextSlot (T : TimingSet) (e : Engine) : Engine :=
  match e.op with
  | .wrbyte => ({ e with bitIdx := nextIdx e.bitIdx } : Engine).enter .wL (slotBit e.data (nextIdx e.bitIdx)) T
  | _ => ({ e with bitIdx := nextIdx e.bitIdx } : Engine).enter .rL false T

/-- `slotEnd(x, T)`, `x` the slot's data bit (R97). `publish` stands before `feedShift` because it reads `sh` as it
was before the edge. -/
def Engine.slotEnd (x : Bool) (T : TimingSet) (e : Engine) : Engine :=
  if e.op.isByte && decide (e.bitIdx.val < 7) then ((e.feedCrc x).feedShift x).nextSlot T
  else (((e.publish x).feedCrc x).feedShift x).finish

/-- What acceptance latches (R99). -/
def Engine.latch (op : Op) (crcen : Bool) (data : Byte) (spd : Bool) (e : Engine) : Engine :=
  { e with op := op, spd := spd, crcen := crcen, data := data, bitIdx := 0, sh := 0 }

/-- Acceptance of a command: the operands and the timing mode are latched and the first phase `P` is entered
(R99). -/
def State.accept (op : Op) (crcen : Bool) (data : Byte) (P : Phase) (b : Bool) (s : State) : State :=
  { s with toEngine := (s.toEngine.latch op crcen data s.speed).enter P b (timing s.cfg s.speed) }

/-- A command that drives the bus, written to CMD: lost with OVR while busy, accepted while idle
(R99, spec/60_exceptions.md R152, R158). -/
def startCommand (op : Op) (crcen : Bool) (data : Byte) (P : Phase) (b : Bool) (s : State) :
    Host.Outcome State Fault Refusal :=
  if s.busy then .next (s.flag .ovr) else .next (s.accept op crcen data P b)

/-- `dq_oe = drive & ~rst` (R37). The block only pulls the line low or releases it (R38). -/
def State.dqOe (rst : Bool) (s : State) : Bool := s.drive && !rst

/-- `line(n)`, the wired-AND of the master and the slaves, which is also `dq_in`; true for high (R40). -/
def State.line (rst slv : Bool) (s : State) : Bool := !(s.dqOe rst || slv)

/-- `lv`: the level the engine sees, after the synchroniser (R90, R92). -/
def State.seen (ln : Bool) (s : State) : Bool :=
  match s.sync.getLast? with
  | none => ln
  | some lv => lv

/-- The synchroniser at an edge: `sync[0] <- ln`, `sync[i] <- sync[i-1]` (R90). -/
def State.shiftSync (ln : Bool) (s : State) : State :=
  { s with sync := (ln :: s.sync).take s.sync.length }

/-- `RESET_STATE`: every state element of the block takes its reset value (R170). -/
def State.toReset (s : State) : State := State.resetOf s.cfg s.toSurroundings

/-- `reg[i]` (R53). A read changes no state. -/
def State.regRead (i : Fin 8) (s : State) : Word :=
  match i.val with
  | 1 => s.status
  | 2 => s.rdata.setWidth 32
  | 3 => s.crc.setWidth 32
  | 4 => (BitVec.ofBool s.speed).setWidth 32
  | _ => 0

/-- A CTRL write: `SPEED <- OD_SUPPORTED ? v[0] : 0` (R32, R54). -/
def State.writeCtrl (v : Word) (s : State) : State := { s with speed := speedFrom s.cfg v }

end Sys2Proof.Machine
end

