-- ==== Sys2Proof/Machine/Engine.lean ====
section
/-! DEFINITION. `advance`: the slot timer and the phase machine (spec/40_timing_engine.md R93, R94, R97). -/

namespace Sys2Proof.Machine

/-- The end of a phase (R97). `lv` is read only by the two sampling phases (R101, R102). -/
def Engine.phaseEnd (lv : Bool) (T : TimingSet) (e : Engine) : Engine :=
  match e.phase with
  | .idle => e
  | .rstL => e.enter .rstW false T
  | .rstW => ({ e with smp := lv } : Engine).enter .rstS false T
  | .rstS => ({ e with ppd := !e.smp } : Engine).finish
  | .wL => e.enter .wH (slotBit e.data e.bitIdx) T
  | .wH => e.slotEnd (slotBit e.data e.bitIdx) T
  | .rL => e.enter .rS (slotBit e.data e.bitIdx) T
  | .rS => ({ e with smp := lv } : Engine).enter .rT (slotBit e.data e.bitIdx) T
  | .rT => e.slotEnd e.smp T

/-- `advance` at an edge at which the engine is busy: the slot timer of R93, then the end of the phase (R97). -/
def Engine.advance (cfg : Config) (lv : Bool) (e : Engine) : Engine :=
  if e.pre < cfg.k - 1 then { e with pre := e.pre + 1 }
  else if 1 < e.us then { e with pre := 0, us := e.us - 1 }
  else ({ e with pre := 0 } : Engine).phaseEnd lv (timing cfg e.spd)

/-- `advance` in a state (R97). -/
def State.advance (lv : Bool) (s : State) : State :=
  { s with toEngine := s.toEngine.advance s.cfg lv }

end Sys2Proof.Machine
end

