-- ==== Sys2Proof/Machine/BitCommands.lean ====
section
/-! DEFINITION. The three bit-level commands of spec/40_timing_engine.md: RESET (R103), WRBIT (R106), RDBIT (R108).
A meaning is the command's effect at the edge that presents it (R99). What the command goes on to do at the
later edges is `Engine.advance` (R97), which reads the `op`, `crcen`, `spd` and `data` latched here. -/

namespace Sys2Proof.Machine

/-- RESET: `crcen <- 0` whatever CRCEN is, and `enter(RST_L, 0, T)` (R99, R103, R105). -/
def execReset (data : Byte) (_crcen : Bool) (s : State) : Host.Outcome State Fault Refusal :=
  startCommand .reset false data .rstL false s

/-- WRBIT: `enter(W_L, v[8], T)` (R99, R106). -/
def execWrbit (data : Byte) (crcen : Bool) (s : State) : Host.Outcome State Fault Refusal :=
  startCommand .wrbit crcen data .wL (firstBit data) s

/-- RDBIT: `enter(R_L, 0, T)` (R99, R108). -/
def execRdbit (data : Byte) (crcen : Bool) (s : State) : Host.Outcome State Fault Refusal :=
  startCommand .rdbit crcen data .rL false s

end Sys2Proof.Machine
end

