-- ==== Sys2Proof/Machine/ByteCommands.lean ====
section
/-! DEFINITION. The two byte commands of spec/41_byte_codec.md: WRBYTE (R131) and RDBYTE (R133), eight slots chained by
`Engine.nextSlot` (R130). -/

namespace Sys2Proof.Machine

/-- WRBYTE: `enter(W_L, x[0], T)` (R99, R131). -/
def execWrbyte (data : Byte) (crcen : Bool) (s : State) : Host.Outcome State Fault Refusal :=
  startCommand .wrbyte crcen data .wL (firstBit data) s

/-- RDBYTE: `enter(R_L, 0, T)` (R99, R133). -/
def execRdbyte (data : Byte) (crcen : Bool) (s : State) : Host.Outcome State Fault Refusal :=
  startCommand .rdbyte crcen data .rL false s

end Sys2Proof.Machine
end

