-- ==== Sys2Proof/Machine/CrcCommand.lean ====
section
/-! DEFINITION. The CRC-8 verifier's command, CRCCLR (spec/42_crc.md R142). -/

namespace Sys2Proof.Machine

/-- `CRC <- 0x00` (R142). -/
def State.clearCrc (s : State) : State := { s with crc := 0 }

/-- CRCCLR: lost with OVR while busy; while idle it clears the CRC register at once, with no busy period
(R99, R142). DATA and CRCEN are ignored (R77). -/
def execCrcclr (_data : Byte) (_crcen : Bool) (s : State) : Host.Outcome State Fault Refusal :=
  if s.busy then .next (s.flag .ovr) else .next s.clearCrc

end Sys2Proof.Machine
end

