-- ==== Sys2Proof/Machine/Dispatch.lean ====
section
/-! DEFINITION. One arm per command of spec/opcode_table.json, each one call of the command's meaning. -/

namespace Sys2Proof.Machine

/-- The effect of a legal command word at the edge that presents it (spec/40_timing_engine.md R99). -/
def exec (i : Instr) (s : State) : Host.Outcome State Fault Refusal :=
  match i with
  | .reset data crcen => Sys2Proof.Machine.execReset data crcen s
  | .wrbit data crcen => Sys2Proof.Machine.execWrbit data crcen s
  | .rdbit data crcen => Sys2Proof.Machine.execRdbit data crcen s
  | .wrbyte data crcen => Sys2Proof.Machine.execWrbyte data crcen s
  | .rdbyte data crcen => Sys2Proof.Machine.execRdbyte data crcen s
  | .crcclr data crcen => Sys2Proof.Machine.execCrcclr data crcen s

end Sys2Proof.Machine
end

