-- ==== Sys2Proof/Machine/HostPort.lean ====
section
/-! DEFINITION. The host port (spec/20_memory.md R50 to R56) and the host agent that presents a host program's moves to
it, one access a cycle (spec/30_encoding.md R80, R81, spec/00_scope.md R13). -/

namespace Sys2Proof.Machine

/-- A write of CMD: the busy check first, then the legality test, then the command
(spec/40_timing_engine.md R99, spec/60_exceptions.md R158). -/
def command (v : Word) (s : State) : Host.Outcome State Fault Refusal :=
  if s.busy then .next (s.flag .ovr)
  else match decode v with
    | .error _ => .next (s.flag .ill)
    | .ok i => exec i s

/-- `hostWrite` (R54). Indices 2, 3, 5, 6 and 7 ignore a write (R30, R31, R33). -/
def hostWrite (i : Fin 8) (v : Word) (s : State) : Host.Outcome State Fault Refusal :=
  match i.val with
  | 0 => command v s
  | 1 => .next (s.clearFlags v)
  | 4 => .next (s.writeCtrl v)
  | _ => .next s

/-- The effect of a cycle's access at the edge that presents it: only a write has one (R54, R55). -/
def hostAccess (acc : Access) (s : State) : Host.Outcome State Fault Refusal :=
  match acc with
  | .none => .next s
  | .read _ => .next s
  | .write i v => hostWrite i v s

/-- The byte address of register `i`: `BASE + 4*i` (R52, R61). -/
def regAddr (cfg : Config) (i : Fin 8) : Nat := cfg.base + 4 * i.val

/-- Whether a platform access touches the block's 32 bytes (R61, R161). -/
def BusAccess.hits (cfg : Config) (a : BusAccess) : Bool :=
  decide (a.addr < cfg.base + 32) && decide (cfg.base < a.addr + a.bytes)

/-- The platform accesses of a cycle that touch the block; the others go to other devices. -/
def busHits (cfg : Config) (accs : List BusAccess) : List BusAccess := accs.filter (BusAccess.hits cfg)

/-- The port access of a platform access: an aligned 32-bit one, or refused by name (R52). -/
def BusAccess.toAccess (cfg : Config) (a : BusAccess) : Except Refusal Access :=
  if a.bytes ≠ 4 then .error .narrowOrWideAccess
  else if a.addr % 4 ≠ 0 ∨ a.addr < cfg.base ∨ (a.addr - cfg.base) % 4 ≠ 0 then .error .misalignedAccess
  else
    let i : Fin 8 := Fin.ofNat 8 ((a.addr - cfg.base) / 4)
    match a.op with
    | .read _ => .ok (.read i)
    | .write v => .ok (.write i v)

/-- The port access of a platform's cycle: at most one may touch the block (R51). -/
def busAccess (cfg : Config) (accs : List BusAccess) : Except Refusal Access :=
  match busHits cfg accs with
  | [] => .ok .none
  | [a] => a.toAccess cfg
  | _ => .error .simultaneousAccess

/-- The port access of a move (R80). A POLL reads STATUS. -/
def HostMove.access (cfg : Config) : HostMove → Except Refusal Access
  | .write i v => .ok (.write i v)
  | .read i _ => .ok (.read i)
  | .look i => .ok (.read i)
  | .readPart i _ _ _ _ => .ok (.read i)
  | .poll => .ok (.read 1)
  | .idle _ => .ok .none
  | .bus accs => busAccess cfg accs

/-- The moves from the one that takes the current cycle on: `IDLE 0` takes none (R80). -/
def skipIdle : List HostMove → List HostMove
  | .idle 0 :: rest => skipIdle rest
  | moves => moves

/-- `acc` of the current cycle (R36, R51). -/
def State.access (s : State) : Except Refusal Access :=
  match skipIdle s.host with
  | [] => .ok .none
  | m :: _ => m.access s.cfg

/-- The moves left after the current cycle. A POLL ends with the read that returns BUSY = 0 (R80). -/
def State.movesLeft (s : State) : List HostMove :=
  match skipIdle s.host with
  | [] => []
  | .poll :: rest => if s.busy then .poll :: rest else rest
  | .idle n :: rest => .idle (n - 1) :: rest
  | _ :: rest => rest

/-- `v[hi:lo]`: bits hi to lo of a word, as a number, which the host holds in a word (R81). -/
def bitsOf (v : Word) (hi lo : Nat) : Word := (v.extractLsb' lo (hi - lo + 1)).setWidth 32

/-- What a move whose read returns `v` binds (R80, R81), the last bound first. A name and its value is R80's "binds the
returned 32-bit value"; a part of it is R81's `p = t[1]`. -/
def HostMove.boundBy (cfg : Config) (v : Word) : HostMove → List (String × Word)
  | .read _ name => [(name, v)]
  | .readPart _ t name hi lo => [(name, bitsOf v hi lo), (t, v)]
  | .bus accs =>
    match busHits cfg accs with
    | [⟨_, _, .read name⟩] => [(name, v)]
    | _ => []
  | .write _ _ => []
  | .look _ => []
  | .poll => []
  | .idle _ => []

/-- `rdata` of the current cycle: `reg[i]` for a `read(i)` (R36, R53). -/
def State.rdataPort (s : State) : Option Word :=
  match s.access with
  | .ok (.read i) => some (s.regRead i)
  | _ => none

/-- What the host has bound after the current cycle, the newest first (R80, R81). -/
def State.bindsAfter (s : State) : List (String × Word) :=
  match skipIdle s.host, s.rdataPort with
  | m :: _, some v => m.boundBy s.cfg v ++ s.binds
  | _, _ => s.binds

end Sys2Proof.Machine
end

