-- ==== Sys2Proof/Machine/Edge.lean ====
section
/-! DEFINITION. One rising clock edge: the block's step `edge` (spec/40_timing_engine.md R90), and the inputs the four
agents of spec/00_scope.md R13 present to it (spec/10_state.md R39). -/

namespace Sys2Proof.Machine

/-- `edge(s, rst_n, acc_n, slv_n)` (R90). Reset overrides everything else (R91). Otherwise the synchroniser shifts, the
host's write acts, and a busy engine advances. `hostWrite` while busy writes only ILL, OVR and SPEED, which
`advance` neither reads nor writes, so applying one after the other is R90's joint update. -/
def edge (rst : Bool) (acc : Access) (slv : Bool) (s : State) : Host.Outcome State Fault Refusal :=
  if rst then .next s.toReset
  else
    match hostAccess acc (s.shiftSync (s.line rst slv)) with
    | .next t => .next (if s.busy then t.advance (s.seen (s.line rst slv)) else t)
    | .fault f => .fault f
    | .refused r => .refused r

/-- `rst_n` of the next edge: the scheduled level, not asserted where none is scheduled (R39). -/
def State.rstNow (s : State) : Bool := s.rstIn.headD false

/-- `slv_n` of the next edge: the scheduled draw, the free draw where none is scheduled (R41). -/
def State.slvNow (s : State) : Bool := s.slvIn.headD (Config.slaveDraw s.cycle)

/-- The surroundings after the current cycle: its move made, its inputs used. -/
def State.passCycle (s : State) : State :=
  { s with toSurroundings :=
      { host := s.movesLeft, binds := s.bindsAfter, rstIn := s.rstIn.tail, slvIn := s.slvIn.tail,
        cycle := s.cycle + 1 } }

/-- One clock edge of the machine: the parameters are checked (R9), the host's move gives the access (R51, R52), and
the block takes its edge. -/
def clockEdge (s : State) : Host.Outcome State Fault Refusal :=
  if configLegal s.cfg then
    match s.access with
    | .error r => .refused r
    | .ok acc => edge s.rstNow acc s.slvNow s.passCycle
  else .refused .illegalConfig

/-- The level of `rst` at the `n`-th coming edge, the next edge being number 0. -/
def State.rstAt (s : State) (n : Nat) : Bool := s.rstIn.getD n false

/-- The slave draw at the `n`-th coming edge, the next edge being number 0. -/
def State.slvAt (s : State) (n : Nat) : Bool := s.slvIn.getD n (Config.slaveDraw (s.cycle + n))

end Sys2Proof.Machine
end

