-- ==== Sys2Proof/Machine/Step.lean ====
section
/-! DEFINITION. The machine's step is one rising clock edge (spec/40_timing_engine.md R90). The block fetches nothing
(spec/10_state.md R21): a command runs when the host writes it to CMD, so the place a command is taken from
is the host's current move. -/

namespace Sys2Proof.Machine

/-- One clock edge. -/
def step (s : State) : Host.Outcome State Fault Refusal := clockEdge s

/-- The state in which the host writes the given command word to CMD in the current cycle, with `rst` not asserted
at the edge that presents it. -/
def State.withFetchWord (s : State) (nbits w : Nat) : State :=
  { s with
    host := .write 0 (BitVec.ofNat 32 (w % 2 ^ nbits)) :: s.host
    rstIn := match s.rstIn with
      | [] => []
      | _ :: later => false :: later }

end Sys2Proof.Machine
end

