-- ==== Sys2Proof/Machine/HostProgram.lean ====
section
/-! DEFINITION. The host-program text of spec/30_encoding.md: the assembler's lines (R79), the moves `W`, `R`, `C`, `POLL`,
`IDLE` (R80), the pseudo-instructions (R81), and the bus command bytes (R84, R85). A text becomes the list of
`HostMove` that a state's `host` field holds. A line outside the grammar is refused (`none`). -/

namespace Sys2Proof.Machine

/-- SKIP_ROM (R84). -/
def skipRom : Byte := 0xCC
/-- READ_ROM (R84). -/
def readRom : Byte := 0x33
/-- MATCH_ROM (R84). -/
def matchRom : Byte := 0x55
/-- SEARCH_ROM (R84). -/
def searchRom : Byte := 0xF0
/-- READ_DATA (R84). -/
def readData : Byte := 0x69
/-- WRITE_DATA (R84). -/
def writeData : Byte := 0x6C
/-- COPY_DATA (R84). -/
def copyData : Byte := 0x48
/-- RECALL_DATA (R84). -/
def recallData : Byte := 0xB8
/-- LOCK (R84). -/
def lockData : Byte := 0x6A

/-- `C <command>`: the same as `W CMD, enc(<command>)` (R80). -/
def moveC (i : Instr) : HostMove := .write 0 (encode i)

/-- The pseudo-instructions of the host language (R81). A name is what the host calls the bound result. -/
inductive Pseudo where
  | skiprom
  | readrom
  | matchrom
  | searchrom
  | cmdw (i : Instr)
  | presence (p : String)
  | rdb (crcen : Bool) (x : String)
  | crcchk (ok : String)
  | clrerr
  deriving DecidableEq, Repr

/-- The expansion of a pseudo-instruction (R81). Where it reads, the word goes to `t` and its part to the result's name. -/
def Pseudo.expand : Pseudo → List HostMove
  | .skiprom => [moveC (.wrbyte skipRom false)]
  | .readrom => [moveC (.wrbyte readRom false)]
  | .matchrom => [moveC (.wrbyte matchRom false)]
  | .searchrom => [moveC (.wrbyte searchRom false)]
  | .cmdw i => [moveC i, .poll]
  | .presence p => [moveC (.reset 0 false), .poll, .readPart 1 "t" p 1 1]
  | .rdb c x => [moveC (.rdbyte 0 c), .poll, .readPart 2 "t" x 7 0]
  | .crcchk ok => [.readPart 1 "t" ok 2 2]
  | .clrerr => [.write 1 0x18]

/-- What the result's name is bound to when the expansion's read returns `t`: `t[1]`, `t[7:0]`, `t[2]` (R81). -/
def Pseudo.value (p : Pseudo) (t : Word) : Word :=
  match p with
  | .presence _ => bitsOf t 1 1
  | .rdb _ _ => bitsOf t 7 0
  | .crcchk _ => bitsOf t 2 2
  | .skiprom | .readrom | .matchrom | .searchrom | .cmdw _ | .clrerr => t

/-- The characters of a line up to its `;` comment, as words between spaces and commas (R79, R80). -/
def lineWords : List Char → List Char → List (List Char)
  | [], [] => []
  | [], w => [w.reverse]
  | c :: cs, w =>
    if c = ';' then (if w.isEmpty then [] else [w.reverse])
    else if c = ' ' ∨ c = ',' then (if w.isEmpty then lineWords cs [] else w.reverse :: lineWords cs [])
    else lineWords cs (c :: w)

/-- The value of a digit character in a base up to 16. -/
def digitValue (base : Nat) (c : Char) : Option Nat :=
  let n :=
    if '0' ≤ c ∧ c ≤ '9' then c.toNat - '0'.toNat
    else if 'a' ≤ c ∧ c ≤ 'f' then c.toNat - 'a'.toNat + 10
    else if 'A' ≤ c ∧ c ≤ 'F' then c.toNat - 'A'.toNat + 10
    else 16
  if n < base then some n else none

/-- A run of digits read in a base, most significant first. -/
def digits (base : Nat) : List Char → Nat → Option Nat
  | [], acc => some acc
  | c :: cs, acc =>
    match digitValue base c with
    | some d => digits base cs (acc * base + d)
    | none => none

/-- A number, decimal or `0x..` (R79, R80). -/
def numberOf : List Char → Option Nat
  | [] => none
  | '0' :: 'x' :: c :: cs => digits 16 (c :: cs) 0
  | cs => digits 10 cs 0

/-- A register name or an index 0 to 7 (R80). -/
def regOf (w : List Char) : Option (Fin 8) :=
  match w with
  | ['C', 'M', 'D'] => some 0
  | ['S', 'T', 'A', 'T', 'U', 'S'] => some 1
  | ['R', 'D', 'A', 'T', 'A'] => some 2
  | ['C', 'R', 'C'] => some 3
  | ['C', 'T', 'R', 'L'] => some 4
  | _ =>
    match numberOf w with
    | some n => if n < 8 then some (Fin.ofNat 8 n) else none
    | none => none

/-- A command of the assembler (R79). -/
def asmLineOf : List (List Char) → Option AsmLine
  | [['R', 'E', 'S', 'E', 'T']] => some .reset
  | [['C', 'R', 'C', 'C', 'L', 'R']] => some .crcclr
  | [['W', 'R', 'B', 'I', 'T'], b] => (numberOf b).map (.wrbit false)
  | [['W', 'R', 'B', 'I', 'T', '.', 'C'], b] => (numberOf b).map (.wrbit true)
  | [['R', 'D', 'B', 'I', 'T']] => some (.rdbit false)
  | [['R', 'D', 'B', 'I', 'T', '.', 'C']] => some (.rdbit true)
  | [['W', 'R', 'B', 'Y', 'T', 'E'], x] => (numberOf x).map (.wrbyte false)
  | [['W', 'R', 'B', 'Y', 'T', 'E', '.', 'C'], x] => (numberOf x).map (.wrbyte true)
  | [['R', 'D', 'B', 'Y', 'T', 'E']] => some (.rdbyte false)
  | [['R', 'D', 'B', 'Y', 'T', 'E', '.', 'C']] => some (.rdbyte true)
  | _ => none

/-- The command a line assembles to, operands outside their range refused (R79). -/
def commandOf (ws : List (List Char)) : Option Instr := (asmLineOf ws).bind AsmLine.assemble

/-- A pseudo-instruction (R81). -/
def pseudoOf : List (List Char) → Option Pseudo
  | [['S', 'K', 'I', 'P', 'R', 'O', 'M']] => some .skiprom
  | [['R', 'E', 'A', 'D', 'R', 'O', 'M']] => some .readrom
  | [['M', 'A', 'T', 'C', 'H', 'R', 'O', 'M']] => some .matchrom
  | [['S', 'E', 'A', 'R', 'C', 'H', 'R', 'O', 'M']] => some .searchrom
  | ['C', 'M', 'D', 'W'] :: c => (commandOf c).map .cmdw
  | [['P', 'R', 'E', 'S', 'E', 'N', 'C', 'E'], ['-', '>'], p] => some (.presence (String.ofList p))
  | [['R', 'D', 'B'], ['-', '>'], x] => some (.rdb false (String.ofList x))
  | [['R', 'D', 'B', '.', 'C'], ['-', '>'], x] => some (.rdb true (String.ofList x))
  | [['C', 'R', 'C', 'C', 'H', 'K'], ['-', '>'], ok] => some (.crcchk (String.ofList ok))
  | [['C', 'L', 'R', 'E', 'R', 'R']] => some .clrerr
  | _ => none

/-- The moves of one line of a host program (R80, R81). A written value is a 32-bit word (R51). `R <reg>` may stand with
no name (DEDUCED, safe, notes/assumptions/16.md): R80 lists the named form only, but its own POLL line and program P4 of
spec/95_test_vectors.md write the bare one. -/
def movesOf (ws : List (List Char)) : Option (List HostMove) :=
  match ws with
  | [] => some []
  | [['W'], r, v] =>
    match regOf r, numberOf v with
    | some i, some n => if n < 2 ^ 32 then some [.write i (BitVec.ofNat 32 n)] else none
    | _, _ => none
  | [['R'], r, ['-', '>'], name] => (regOf r).map fun i => [.read i (String.ofList name)]
  | [['R'], r] => (regOf r).map fun i => [.look i]
  | ['C'] :: c => (commandOf c).map fun i => [moveC i]
  | [['P', 'O', 'L', 'L']] => some [.poll]
  | [['I', 'D', 'L', 'E'], n] => (numberOf n).map fun k => [.idle k]
  | _ => (pseudoOf ws).map Pseudo.expand

/-- The moves of a host program, one line each (R80). -/
def hostProgram : List String → Option (List HostMove)
  | [] => some []
  | l :: ls =>
    match movesOf (lineWords l.toList []), hostProgram ls with
    | some ms, some rest => some (ms ++ rest)
    | _, _ => none

/-- The text of an assembler line, as the disassembler shows it (R79). DESIGN CHOICE, safe (notes/assumptions/17.md): R79
lets an operand be decimal or `0x..`, and it is shown in decimal, one space after the mnemonic. -/
def asmText : AsmLine → String
  | .reset => "RESET"
  | .crcclr => "CRCCLR"
  | .wrbit c b => (if c then "WRBIT.C " else "WRBIT ") ++ toString b
  | .rdbit c => if c then "RDBIT.C" else "RDBIT"
  | .wrbyte c x => (if c then "WRBYTE.C " else "WRBYTE ") ++ toString x
  | .rdbyte c => if c then "RDBYTE.C" else "RDBYTE"

/-- The text a disassembler shows: the line, or `.word <hex>` (R79). DESIGN CHOICE, safe (notes/assumptions/17.md): the hex
is `0x`, then lower-case digits without leading zeros. -/
def shownText : Shown → String
  | .line l => asmText l
  | .word v => ".word 0x" ++ String.ofList (Nat.toDigits 16 v.toNat)

end Sys2Proof.Machine
end

