-- ==== Sys2Proof/Safety.lean ====
section
/-! DEFINITION. The words claims are stated in: the invariant of spec/10_state.md R35 with what keeps it, runs of several
edges, and what it is for a command to be presented to an idle block. -/

namespace Sys2Proof.Machine

/-- The phases a command goes through (spec/40_timing_engine.md R94, R97). -/
def Op.owns (op : Op) (P : Phase) : Bool :=
  match op, P with
  | .reset, .rstL => true
  | .reset, .rstW => true
  | .reset, .rstS => true
  | .wrbit, .wL => true
  | .wrbit, .wH => true
  | .wrbyte, .wL => true
  | .wrbyte, .wH => true
  | .rdbit, .rL => true
  | .rdbit, .rS => true
  | .rdbit, .rT => true
  | .rdbyte, .rL => true
  | .rdbyte, .rS => true
  | .rdbyte, .rT => true
  | _, _ => false

/-- R35, clause by clause, and the facts it rests on: the parameters are legal (R9), the two stored timing modes are
modes the block has (R32), the synchroniser has its `SYNC` stages (R34), and a busy engine is in a phase of its
command with that phase's drive value (R94, R96). -/
abbrev State.Inv (s : State) : Prop :=
  configLegal s.cfg = true ∧
  (s.speed = true → s.cfg.odSupported = true) ∧
  (s.spd = true → s.cfg.odSupported = true) ∧
  s.sync.length = s.cfg.syncStages ∧
  (s.phase = .idle → s.drive = false ∧ s.pre = 0 ∧ s.us = 0) ∧
  (s.phase ≠ .idle →
    s.op ≠ .none ∧ 1 ≤ s.us ∧ s.us ≤ maxDuration (timing s.cfg s.spd) ∧ s.pre ≤ s.cfg.k - 1 ∧
    s.op.owns s.phase = true ∧ s.drive = drv s.phase) ∧
  (s.op = .reset ∨ s.op = .rdbit ∨ s.op = .wrbit → s.bitIdx = 0)

/-- Every move of the host is one the block has an access for (R51, R52): the moves of R80 always are, a platform's
cycle may not be. -/
def State.hostOk (s : State) : Bool :=
  s.host.all fun m => match m.access s.cfg with
    | .ok _ => true
    | .error _ => false

/-- `n` edges lead from one state to the other. -/
def State.After (n : Nat) (s t : State) : Prop := Sys2Proof.core.run n s = Host.Outcome.next t

/-- `rst` is not asserted at any of the next `n` edges. -/
def State.NoReset (n : Nat) (s : State) : Prop := ∀ m, m < n → s.rstAt m = false

/-- An idle block to which the host presents the command `i` in the current cycle, `rst` staying low for the next `n`
edges. Edge number 0 from here is the command's acceptance edge `E_0` (R11, R99); `After (m + 1)` is cycle `m`. -/
structure State.Starts (i : Instr) (n : Nat) (s : State) : Prop where
  inv : s.Inv
  idle : s.busy = false
  host : s.hostOk = true
  presents : ∃ v, s.access = .ok (.write 0 v) ∧ decode v = .ok i
  noReset : s.NoReset n

/-- The timing set a command accepted in this state uses (R95, R99). -/
def State.timingSet (s : State) : TimingSet := timing s.cfg s.speed

/-- The state with the hidden field `data` forgotten, in an outcome. -/
def forgetData : Host.Outcome State Fault Refusal → Host.Outcome State Fault Refusal
  | .next s => .next { s with data := 0 }
  | o => o

/-- The state with the synchroniser stages forgotten, in an outcome. -/
def forgetSync : Host.Outcome State Fault Refusal → Host.Outcome State Fault Refusal
  | .next s => .next { s with sync := [] }
  | o => o

/-- An edge's outcome with OVR set. -/
def withOvr : Host.Outcome State Fault Refusal → Host.Outcome State Fault Refusal
  | .next s => .next { s with ovr := true }
  | o => o

/-- An edge's outcome with ILL set. -/
def withIll : Host.Outcome State Fault Refusal → Host.Outcome State Fault Refusal
  | .next s => .next { s with ill := true }
  | o => o

/-- The next edge is the one at which the current phase ends (R93). -/
def State.phaseEnds (s : State) : Bool := decide (s.cfg.k - 1 ≤ s.pre) && decide (s.us ≤ 1)

/-- The next edge is one of the two sampling edges (R101, R102). -/
def State.samples (s : State) : Bool := s.phaseEnds && (s.phase == .rstW || s.phase == .rS)

end Sys2Proof.Machine
end

