-- ==== Sys2Proof/Certificates/Slice0/Obligations.lean ====
section
/-! DEFINITION. The statements for the provers, each about the machine, none about a program. Unless a docstring says
otherwise a statement formalises the numbered rules it names. `s.After n t` says that `n` edges lead from `s` to
`t`; with a command presented in `s`, `After (m + 1)` is cycle `m` of the command (spec/00_scope.md R11). -/

open Sys2Proof Sys2Proof.Machine

/-! ## The command word -/

/-- R76: which words are legal, by arithmetic on the word's value; the decoder reads exactly those; an illegal word
written while idle sets ILL and changes no other state, written while busy sets OVR only. -/
def Obligations.IllegalWordsSetIllOrOvrOnly : Prop :=
  ∀ (v : Word) (s : State),
    (legal v = true ↔ v.toNat / 2 ^ 16 = 0 ∧ v.toNat / 2 ^ 5 % 8 = 0 ∧ 1 ≤ v.toNat % 16 ∧ v.toNat % 16 ≤ 6) ∧
    (legal v = true ↔ ∃ i, decode v = .ok i) ∧
    (legal v = false → s.busy = false → command v s = .next { s with ill := true }) ∧
    (legal v = false → s.busy = true → command v s = .next { s with ovr := true })

/-- Decoding and encoding are inverse to each other on all words and all commands: no bit of a legal word is dropped
and no two words give one command (derived: 30_encoding.md, the format and the opcode map). -/
def Obligations.DecodeAndEncodeAreInverse : Prop :=
  ∀ (v : Word) (i : Instr), decode v = .ok i ↔ encode i = v

/-- The canonical words of the assembler, as R79's table writes them, and its refusal of an operand outside its range;
a disassembler shows every legal word, its ignored bits set or not, as the line whose canonical word is the word with
the ignored bits of R77's table dropped, and an illegal word as `.word` (derived from R79, whose written syntax is not
stated here). -/
def Obligations.AssemblerWritesTheCanonicalWords : Prop :=
  (∀ (c : Bool) (b : Nat), (AsmLine.wrbit c b).enc =
    if b ≤ 1 then some (BitVec.ofNat 32 (2 + (if c then 16 else 0) + b * 256)) else none) ∧
  (∀ (c : Bool) (x : Nat), (AsmLine.wrbyte c x).enc =
    if x ≤ 255 then some (BitVec.ofNat 32 (4 + (if c then 16 else 0) + x * 256)) else none) ∧
  (∀ c : Bool, (AsmLine.rdbit c).enc = some (if c then 0x13 else 0x03) ∧
    (AsmLine.rdbyte c).enc = some (if c then 0x15 else 0x05)) ∧
  AsmLine.reset.enc = some 0x01 ∧ AsmLine.crcclr.enc = some 0x06 ∧
  (∀ (l : AsmLine) (v : Word), l.enc = some v → disassemble v = .line l) ∧
  (∀ (v : Word) (i : Instr) (l : AsmLine), decode v = .ok i → l.enc = some (encode i.canon) → disassemble v = .line l) ∧
  (∀ v : Word, legal v = true → ∃ l : AsmLine, disassemble v = .line l ∧ l.enc = some (v &&& (match v.toNat % 16 with
      | 1 => 0xFFFF00EF
      | 2 => 0xFFFF01FF
      | 3 => 0xFFFF00FF
      | 4 => 0xFFFFFFFF
      | 5 => 0xFFFF00FF
      | _ => 0xFFFF00EF))) ∧
  (∀ v : Word, legal v = false → disassemble v = .word v)

/-- Words written out from the table of 30_encoding.md decode to the commands they stand for (a sanity statement). -/
def Obligations.WrittenOutWordsDecode : Prop :=
  decode 0x00000001 = .ok (.reset 0 false) ∧ decode 0x00000102 = .ok (.wrbit 1 false) ∧
  decode 0x00000013 = .ok (.rdbit 0 true) ∧ decode 0x0000CC14 = .ok (.wrbyte 0xCC true) ∧
  decode 0x00000005 = .ok (.rdbyte 0 false) ∧ decode 0x0000FF06 = .ok (.crcclr 0xFF false)

/-- R77: the table of ignored bits, per command, and that an ignored bit's value never changes what the command does:
two legal words of one command that differ in ignored bits only, presented to the same state, are turned into runs
that agree edge for edge on everything but the hidden latch of DATA (`data`), which no rule reads there. -/
def Obligations.IgnoredBitsNeverChangeTheCommand : Prop :=
  ∀ (v v' : Word) (i i' : Instr) (s t t' : State),
    decode v = .ok i → decode v' = .ok i' →
    (v ^^^ v') &&& (match v.toNat % 16 with
      | 1 => 0xFFFF00EF
      | 2 => 0xFFFF01FF
      | 3 => 0xFFFF00FF
      | 4 => 0xFFFFFFFF
      | 5 => 0xFFFF00FF
      | _ => 0xFFFF00EF) = 0 →
    exec i s = .next t → exec i' s = .next t' →
    ∀ n, forgetData (Sys2Proof.core.run n t) = forgetData (Sys2Proof.core.run n t')

/-! ## A command at the edge that presents it -/

/-- R99, whole: a CMD write while busy flags OVR, an illegal word flags ILL, OP 6 clears the CRC register, and the five
bus commands latch their operands and the timing mode and enter their first phase, at the acceptance edge itself. -/
def Obligations.CommandAcceptance : Prop :=
  ∀ (v : Word) (s : State),
    command v s = .next (
      let T := if s.speed then s.cfg.tOd else tStd
      let latched (op : Op) (c : Bool) : State :=
        { s with op := op, spd := s.speed, crcen := c, data := v.extractLsb' 8 8, bitIdx := 0, sh := 0,
                 pre := 0, drive := true }
      if s.phase ≠ .idle then { s with ovr := true }
      else if ¬ (v.extractLsb' 16 16 = 0 ∧ v.extractLsb' 5 3 = 0 ∧ 1 ≤ v.toNat % 16 ∧ v.toNat % 16 ≤ 6) then
        { s with ill := true }
      else match v.toNat % 16 with
        | 1 => { latched .reset false with phase := .rstL, us := T.rstL }
        | 2 => { latched .wrbit (v.getLsbD 4) with phase := .wL, us := if v.getLsbD 8 then T.w1L else T.w0L }
        | 3 => { latched .rdbit (v.getLsbD 4) with phase := .rL, us := T.rL }
        | 4 => { latched .wrbyte (v.getLsbD 4) with phase := .wL, us := if v.getLsbD 8 then T.w1L else T.w0L }
        | 5 => { latched .rdbyte (v.getLsbD 4) with phase := .rL, us := T.rL }
        | _ => { s with crc := 0 })

/-- RESET presented to an idle block answers the next state the rules give: every field it does not name is unchanged
(derived from R99 and R103, of which this is the acceptance). -/
def Obligations.ResetIsAccepted : Prop :=
  ∀ (d : Byte) (c : Bool) (s : State), s.busy = false →
    exec (.reset d c) s = .next
      { s with op := .reset, spd := s.speed, crcen := false, data := d, bitIdx := 0, sh := 0, phase := .rstL,
               us := s.timingSet.rstL, pre := 0, drive := true }

/-- WRBIT presented to an idle block (derived from R99 and R106). -/
def Obligations.WrbitIsAccepted : Prop :=
  ∀ (d : Byte) (c : Bool) (s : State), s.busy = false →
    exec (.wrbit d c) s = .next
      { s with op := .wrbit, spd := s.speed, crcen := c, data := d, bitIdx := 0, sh := 0, phase := .wL,
               us := if d.getLsbD 0 then s.timingSet.w1L else s.timingSet.w0L, pre := 0, drive := true }

/-- RDBIT presented to an idle block (derived from R99 and R108). -/
def Obligations.RdbitIsAccepted : Prop :=
  ∀ (d : Byte) (c : Bool) (s : State), s.busy = false →
    exec (.rdbit d c) s = .next
      { s with op := .rdbit, spd := s.speed, crcen := c, data := d, bitIdx := 0, sh := 0, phase := .rL,
               us := s.timingSet.rL, pre := 0, drive := true }

/-- WRBYTE presented to an idle block (derived from R99 and R131). -/
def Obligations.WrbyteIsAccepted : Prop :=
  ∀ (d : Byte) (c : Bool) (s : State), s.busy = false →
    exec (.wrbyte d c) s = .next
      { s with op := .wrbyte, spd := s.speed, crcen := c, data := d, bitIdx := 0, sh := 0, phase := .wL,
               us := if d.getLsbD 0 then s.timingSet.w1L else s.timingSet.w0L, pre := 0, drive := true }

/-- RDBYTE presented to an idle block (derived from R99 and R133). -/
def Obligations.RdbyteIsAccepted : Prop :=
  ∀ (d : Byte) (c : Bool) (s : State), s.busy = false →
    exec (.rdbyte d c) s = .next
      { s with op := .rdbyte, spd := s.speed, crcen := c, data := d, bitIdx := 0, sh := 0, phase := .rL,
               us := s.timingSet.rL, pre := 0, drive := true }

/-- R142: CRCCLR presented to an idle block clears the CRC register at that edge, so that CRCOK reads 1 and BUSY stays
0, and changes nothing else; written while busy it sets OVR and the CRC is not cleared. -/
def Obligations.CrcclrClearsTheCrc : Prop :=
  ∀ (d : Byte) (c : Bool) (s : State),
    encode (.crcclr 0 false) = 0x00000006 ∧
    (s.busy = false → exec (.crcclr d c) s = .next { s with crc := 0 } ∧
      ({ s with crc := 0 } : State).regRead 3 = 0 ∧
      (({ s with crc := 0 } : State).regRead 1).getLsbD 2 = true ∧
      (({ s with crc := 0 } : State).regRead 1).getLsbD 0 = false) ∧
    (s.busy = true → exec (.crcclr d c) s = .next { s with ovr := true })

/-- R152: any word written to CMD while busy, legal or not, sets OVR at the write's edge, and the running command goes
on exactly as if nothing had been written. -/
def Obligations.CommandWhileBusyIsLost : Prop :=
  ∀ (v : Word) (slv : Bool) (s : State), s.busy = true →
    edge false (.write 0 v) slv s = withOvr (edge false .none slv s)

/-- R151: an illegal word written to CMD while idle sets ILL at the write's edge; nothing else changes and no bus
activity starts. -/
def Obligations.IllegalCommandSetsIll : Prop :=
  ∀ (v : Word) (slv : Bool) (s : State), s.busy = false → legal v = false →
    edge false (.write 0 v) slv s = withIll (edge false .none slv s) ∧
    ∀ t, edge false (.write 0 v) slv s = .next t → t.busy = false ∧ t.drive = s.drive

/-- R158: the priority of what can meet at one edge: reset, then OVR, then ILL, then acceptance. A CMD write presented
at the finish edge of the running command sets OVR and is lost. A STATUS write and an engine result at one edge touch
different fields. -/
def Obligations.PriorityAtOneEdge : Prop :=
  ∀ (rst slv : Bool) (v : Word) (s t : State), edge rst (.write 0 v) slv s = .next t →
    (rst = true → t = s.toReset) ∧
    (rst = false → s.busy = true → t.ovr = true ∧ t.ill = s.ill ∧ t.toEngine = s.toEngine.advance s.cfg
      (s.seen (s.line false slv))) ∧
    (rst = false → s.busy = false → legal v = false → t.ill = true ∧ t.ovr = s.ovr ∧ t.toEngine = s.toEngine) ∧
    (rst = false → s.busy = false → legal v = true → t.ill = s.ill ∧ t.ovr = s.ovr ∧
      (t.busy = true ∨ t.toEngine = { s.toEngine with crc := 0 })) ∧
    (∀ (w : Word) (u : State), s.busy = true → edge false (.write 1 w) slv s = .next u →
      u.toEngine = s.toEngine.advance s.cfg (s.seen (s.line false slv)) ∧
      u.ill = (s.ill && !w.getLsbD 3) ∧ u.ovr = (s.ovr && !w.getLsbD 4))

/-- A step runs the command the host presents: at an idle block it is `exec` of the command the word decodes to, around
which only the synchroniser shifts and the host's cycle passes; at a busy block the engine advances as well. Illegal
words and reset do what R91 and R151 say instead (derived from R90 and R99). -/
def Obligations.StepRunsThePresentedCommand : Prop :=
  ∀ (s : State) (v : Word) (i : Instr),
    configLegal s.cfg = true → s.access = .ok (.write 0 v) → s.rstNow = false → decode v = .ok i →
    (s.busy = false → step s = exec i (s.passCycle.shiftSync (s.line false s.slvNow))) ∧
    (s.busy = true → ∃ t, exec i (s.passCycle.shiftSync (s.line false s.slvNow)) = .next t ∧
      step s = .next (t.advance (s.seen (s.line false s.slvNow))))

/-! ## The register port -/

/-- R53: what a read of each index returns, bit by bit, and that a read changes no state. -/
def Obligations.RegisterReads : Prop :=
  ∀ (s : State),
    s.regRead 0 = 0 ∧
    (s.regRead 1).toNat = (if s.phase ≠ .idle then 1 else 0) + (if s.ppd then 2 else 0) + (if s.crc = 0 then 4 else 0)
      + (if s.ill then 8 else 0) + (if s.ovr then 16 else 0) ∧
    (s.regRead 2).toNat = s.rdata.toNat ∧ (s.regRead 3).toNat = s.crc.toNat ∧
    (s.regRead 4).toNat = (if s.speed then 1 else 0) ∧
    s.regRead 5 = 0 ∧ s.regRead 6 = 0 ∧ s.regRead 7 = 0 ∧
    (∀ (i : Fin 8) (slv : Bool), edge false (.read i) slv s = edge false .none slv s) ∧
    (∀ (i : Fin 8), s.access = .ok (.read i) → s.rdataPort = some (s.regRead i))

/-- R54: what a write of each index does, and that it acts at the edge that presents it, a busy engine advancing beside
it. -/
def Obligations.RegisterWrites : Prop :=
  ∀ (v : Word) (s : State),
    (∀ (i : Fin 8) (slv : Bool), s.busy = false →
      edge false (.write i v) slv s = hostWrite i v (s.shiftSync (s.line false slv))) ∧
    (∀ (i : Fin 8) (slv : Bool), s.busy = true → ∃ t,
      hostWrite i v (s.shiftSync (s.line false slv)) = .next t ∧
      edge false (.write i v) slv s = .next (t.advance (s.seen (s.line false slv)))) ∧
    hostWrite 0 v s = command v s ∧
    hostWrite 1 v s = .next { s with ill := if v.getLsbD 3 then false else s.ill,
                                     ovr := if v.getLsbD 4 then false else s.ovr } ∧
    hostWrite 4 v s = .next { s with speed := if s.cfg.odSupported then v.getLsbD 0 else false } ∧
    ∀ i : Fin 8, i ≠ 0 → i ≠ 1 → i ≠ 4 → hostWrite i v s = .next s

/-- R32: at the edge a CTRL write is presented SPEED takes bit 0 of the written word, or 0 where there is no overdrive;
a command takes its mode from SPEED when it is accepted, standard for 0 and overdrive for 1; a running command keeps the mode it latched; and without overdrive SPEED, once 0, stays 0 under every step. -/
def Obligations.SpeedSelectsTheModeOfLaterCommands : Prop :=
  ∀ (s t : State),
    (∀ (v : Word) (slv : Bool), edge false (.write 4 v) slv s = .next t →
      t.speed = (if s.cfg.odSupported then v.getLsbD 0 else false) ∧
      (t.regRead 4).toNat = (if s.cfg.odSupported then v.getLsbD 0 else false).toNat ∧ t.spd = s.spd) ∧
    (∀ i : Instr, s.busy = false → exec i s = .next t → t.busy = true →
      t.spd = s.speed ∧ t.us = dur t.phase (i.data.getLsbD 0) (if s.speed then s.cfg.tOd else tStd)) ∧
    (s.cfg.odSupported = false → s.speed = false → step s = .next t → t.speed = false)

/-- R62 and the order argument of R90: no access reaches a running command. At an edge of a busy block the engine goes
on as without the access, whatever the access is (derived from R62 and R90). -/
def Obligations.NoAccessReachesARunningCommand : Prop :=
  ∀ (acc : Access) (slv : Bool) (s : State), s.busy = true →
    ∃ t u, edge false acc slv s = .next t ∧ edge false .none slv s = .next u ∧
      t.toEngine = u.toEngine ∧ t.sync = u.sync

/-- R28 and R29: exactly when the two sticky flags are set and cleared, over every step. -/
def Obligations.ErrorFlagsAreSticky : Prop :=
  ∀ (s t : State), step s = .next t →
    (t.ill = true ↔ s.rstNow = false ∧
      ((∃ v, s.access = .ok (.write 0 v) ∧ s.busy = false ∧ legal v = false) ∨
       (s.ill = true ∧ ¬ ∃ v, s.access = .ok (.write 1 v) ∧ v.getLsbD 3 = true))) ∧
    (t.ovr = true ↔ s.rstNow = false ∧
      ((∃ v, s.access = .ok (.write 0 v) ∧ s.busy = true) ∨
       (s.ovr = true ∧ ¬ ∃ v, s.access = .ok (.write 1 v) ∧ v.getLsbD 4 = true)))

/-- R150: `flag` sets the event's STATUS bit at the code the table gives it and changes nothing else a host can read, a
second time as the first; BusEmpty is PPD = 0 and CRC mismatch is CRCOK = 0, as a read of STATUS shows them. -/
def Obligations.EventsAreReportedInStatus : Prop :=
  ∀ (s : State),
    (((s.flag .ill).regRead 1).toNat = (s.regRead 1).toNat ||| 2 ^ 3) ∧
    (((s.flag .ovr).regRead 1).toNat = (s.regRead 1).toNat ||| 2 ^ 4) ∧
    Event.ill.code = 3 ∧ Event.ovr.code = 4 ∧
    (∀ (ev : Event) (i : Fin 8), i ≠ 1 → (s.flag ev).regRead i = s.regRead i) ∧
    (∀ ev : Event, (s.flag ev).toEngine = s.toEngine ∧ (s.flag ev).flag ev = s.flag ev) ∧
    (busEmpty (s.regRead 1) = true ↔ s.ppd = false) ∧
    (crcMismatch (s.regRead 1) = true ↔ s.crc ≠ 0)

/-- R26: PPD changes only at the finish edge of a RESET command, where it becomes 1 if the presence sample was low and
0 if it was high, and at reset, where it becomes 0. -/
def Obligations.PpdIsWrittenAtTheFinishOfResetOnly : Prop :=
  ∀ (s t : State), step s = .next t →
    t.ppd = if s.rstNow then false else if s.phase = .rstS ∧ s.phaseEnds = true then !s.smp else s.ppd

/-- R30: RDATA changes only at the finish edge of RDBIT, to the bit, and of RDBYTE, to the assembled byte, and at
reset, to 0; a read of index 2 returns it in bits 7:0 and 0 above; a host write is ignored. -/
def Obligations.RdataIsWrittenAtTheFinishOfReadsOnly : Prop :=
  ∀ (s t : State), s.Inv → step s = .next t →
    (t.rdata = if s.rstNow then 0
      else if s.phase = .rT ∧ s.phaseEnds = true ∧ s.op = .rdbit then (if s.smp then 1 else 0)
      else if s.phase = .rT ∧ s.phaseEnds = true ∧ s.op = .rdbyte ∧ s.bitIdx = 7 then
        BitVec.ofNat 8 (s.sh.toNat / 2 + if s.smp then 128 else 0)
      else s.rdata) ∧
    (s.regRead 2).toNat = s.rdata.toNat ∧
    (∀ v, hostWrite 2 v s = .next s)

/-- R31: the CRC register changes only when a slot of a command with `crcen` ends, when CRCCLR is accepted, and at
reset; a read of index 3 returns it in bits 7:0 and 0 above; a host write is ignored. -/
def Obligations.CrcIsWrittenBySlotEndsAndCrcclrOnly : Prop :=
  ∀ (s t : State), step s = .next t →
    t.crc = (
      if s.rstNow then 0
      else if s.busy then
        (if s.phaseEnds ∧ s.crcen then
          (if s.phase = .wH then crcStep s.crc (s.data.getLsbD s.bitIdx)
           else if s.phase = .rT then crcStep s.crc s.smp else s.crc)
         else s.crc)
      else match s.access with
        | .ok (.write 0 v) => if legal v ∧ v.toNat % 16 = 6 then 0 else s.crc
        | _ => s.crc) ∧
    (s.regRead 3).toNat = s.crc.toNat ∧
    (∀ v, hostWrite 3 v s = .next s)

/-- A byte-addressed platform: register `i` sits at `BASE + 4*i`; an aligned 32-bit access there is the access of index
`i`; two accesses of the block in one cycle, and a narrower, wider or misaligned one, are refused, each under its own
name (derived from R51 and R52). Which platform accesses touch the block (`hits`), that width is judged before
alignment, and the names are the model's choice (log entry 10, DESIGN CHOICE). -/
def Obligations.PlatformAccessesAreMappedOrRefused : Prop :=
  ∀ (s : State) (rest : List HostMove), configLegal s.cfg = true →
    (∀ (i : Fin 8) (v : Word), s.cfg.base % 4 = 0 →
      s.host = .bus [⟨s.cfg.base + 4 * i.val, 4, .write v⟩] :: rest → s.access = .ok (.write i v)) ∧
    (∀ (i : Fin 8) (name : String), s.cfg.base % 4 = 0 →
      s.host = .bus [⟨s.cfg.base + 4 * i.val, 4, .read name⟩] :: rest → s.access = .ok (.read i)) ∧
    (∀ a b : BusAccess, a.hits s.cfg = true → b.hits s.cfg = true → s.host = .bus [a, b] :: rest →
      step s = .refused .simultaneousAccess) ∧
    (∀ a : BusAccess, a.hits s.cfg = true → a.bytes ≠ 4 → s.host = .bus [a] :: rest →
      step s = .refused .narrowOrWideAccess) ∧
    (∀ a : BusAccess, a.hits s.cfg = true → a.bytes = 4 → a.addr % 4 ≠ 0 → s.host = .bus [a] :: rest →
      step s = .refused .misalignedAccess)

/-- A cycle of a byte-addressed platform, whatever it issues in it: none that touches the block is no access; two or
more that do are refused; a single one of 32 bits whose address is no multiple of 4, or no multiple of 4 away from
`BASE`, and a single one of another width, are refused, each under its own name (derived from R51 and R52). Which
accesses touch the block, what counts as misaligned where `BASE` is no multiple of 4, that width is judged before
alignment, and the names are the model's choice (log entry 10, DESIGN CHOICE). -/
def Obligations.PlatformCyclesAreNoneOneOrRefused : Prop :=
  ∀ (s : State) (accs : List BusAccess) (rest : List HostMove), configLegal s.cfg = true → s.host = .bus accs :: rest →
    (accs.filter (BusAccess.hits s.cfg) = [] → s.access = .ok .none) ∧
    (2 ≤ (accs.filter (BusAccess.hits s.cfg)).length → step s = .refused .simultaneousAccess) ∧
    (∀ a : BusAccess, accs.filter (BusAccess.hits s.cfg) = [a] → a.bytes ≠ 4 → step s = .refused .narrowOrWideAccess) ∧
    (∀ a : BusAccess, accs.filter (BusAccess.hits s.cfg) = [a] → a.bytes = 4 →
      (a.addr % 4 ≠ 0 ∨ ((a.addr : Int) - s.cfg.base) % 4 ≠ 0) → step s = .refused .misalignedAccess)

/-! ## Reset, the line and the synchroniser -/

/-- R91 and R170: an edge with `rst` asserted gives every state element of the block its reset value, whatever the access
and the line; the host access at that edge is lost, the engine does not advance, no sample is taken. As the host
reads it afterwards every register has the value of the reset column. -/
def Obligations.ResetEdgeGivesTheResetState : Prop :=
  ∀ (acc : Access) (slv : Bool) (s : State),
    edge true acc slv s = .next
      { s with ppd := false, rdata := 0, crc := 0, phase := .idle, op := .none, crcen := false, spd := false, data := 0,
               bitIdx := 0, sh := 0, smp := false, pre := 0, us := 0, drive := false, ill := false, ovr := false,
               speed := false, sync := List.replicate s.cfg.syncStages true } ∧
    ∀ t, edge true acc slv s = .next t → ∀ i : Fin 8, t.regRead i = if i = 1 then 4 else 0

/-- R171 and R172: while `rst` stays asserted the line is never pulled low by the master, in any state, not even in the
cycle before the first reset edge, and every step, in the middle of a command too, leaves the block in its reset
state, with no result written (derived: the further host duties of R172 are not the block's). -/
def Obligations.ResetAbandonsARunningCommand : Prop :=
  ∀ (s t : State), s.rstNow = true → step s = .next t →
    s.dqOe s.rstNow = false ∧ t.toEngine = Engine.reset ∧ t.ill = false ∧ t.ovr = false ∧ t.speed = false ∧
    t.sync = List.replicate s.cfg.syncStages true ∧ t.cfg = s.cfg

/-- The machine after reset: the values the spec's reset columns give, idle with the line released, and the parameters
the spec names a default for (R170 and the defaults of R7; the parameters the model leaves free are free). -/
def Obligations.ResetValues : Prop :=
  State.reset.regRead 0 = 0 ∧ State.reset.regRead 1 = 4 ∧ State.reset.regRead 2 = 0 ∧ State.reset.regRead 3 = 0 ∧
  State.reset.regRead 4 = 0 ∧ State.reset.phase = .idle ∧ State.reset.op = .none ∧ State.reset.crcen = false ∧
  State.reset.spd = false ∧ State.reset.data = 0 ∧ State.reset.bitIdx = 0 ∧ State.reset.sh = 0 ∧
  State.reset.smp = false ∧ State.reset.pre = 0 ∧ State.reset.us = 0 ∧ State.reset.drive = false ∧
  State.reset.sync = [true, true] ∧ State.reset.cfg.odSupported = false

/-- R37 and R40: the drive output and the wired-AND line. -/
def Obligations.WiredAndLine : Prop :=
  ∀ (rst slv : Bool) (s : State),
    (s.dqOe rst = true ↔ s.drive = true ∧ rst = false) ∧
    (s.line rst slv = false ↔ (s.drive = true ∧ rst = false) ∨ slv = true)

/-- R92: without a reset in between, the level the engine sees at an edge is the line `SYNC` edges earlier; before `SYNC`
edges have passed since a reset it is the stages' reset value 1. -/
def Obligations.SynchroniserDelaysTheLine : Prop :=
  ∀ (s t : State) (n : Nat), configLegal s.cfg = true → s.sync = List.replicate s.cfg.syncStages true →
    s.NoReset (n + 1) → s.After n t →
    (n < s.cfg.syncStages → t.seen (t.line false t.slvNow) = true) ∧
    (∀ u, s.cfg.syncStages ≤ n → s.After (n - s.cfg.syncStages) u →
      t.seen (t.line false t.slvNow) = u.line false u.slvNow)

/-! ## The engine -/

/-- R35: every step keeps the invariant, from every state that meets it. -/
def Obligations.EveryStepKeepsTheInvariant : Prop :=
  ∀ (s t : State), s.Inv → step s = .next t → t.Inv

/-- The machine after reset meets the invariant of R35 (derived from R34, R35 and R170). -/
def Obligations.ResetMeetsTheInvariant : Prop := State.reset.Inv

/-- R100: a phase entered with duration `d` microseconds keeps its phase and its drive value for exactly `d*K` cycles and
ends at edge `d*K`, whatever the host and the line do. -/
def Obligations.PhaseLastsExactly : Prop :=
  ∀ (s : State) (d : Nat), s.Inv → s.busy = true → s.hostOk = true → s.pre = 0 → s.us = d →
    s.NoReset (d * s.cfg.k) →
    (∀ n, n < d * s.cfg.k → ∃ t, s.After n t ∧ t.phase = s.phase ∧ t.drive = drv s.phase ∧
      t.pre = n % s.cfg.k ∧ t.us = d - n / s.cfg.k) ∧
    ∃ t, s.After (d * s.cfg.k) t ∧ t.phase ≠ s.phase

/-- R102: the line matters at the two sampling edges only; at every other edge its level reaches no state but the
synchroniser stages, and so it does during a write slot. -/
def Obligations.LineMattersAtSamplingEdgesOnly : Prop :=
  ∀ (acc : Access) (slv slv' : Bool) (s : State),
    (s.samples = false ∨ s.phase = .wL ∨ s.phase = .wH) →
    forgetSync (edge false acc slv s) = forgetSync (edge false acc slv' s)

/-- RESET, R103 and R104: from the acceptance edge the line is driven low for `T.rstL` microseconds and released to the
end; the command ends after `T.rstL + T.pds + T.rstS` microseconds, where PPD becomes 1 exactly if a slave pulled
the line low at edge `(T.rstL + T.pds)*K - SYNC`; until then PPD keeps its value; CRC and RDATA are unchanged. Under
`T_STD` that is 960 microseconds. -/
def Obligations.ResetTimeline : Prop :=
  ∀ (s : State) (d : Byte) (c : Bool) (N : Nat),
    N = (s.timingSet.rstL + s.timingSet.pds + s.timingSet.rstS) * s.cfg.k →
    s.Starts (.reset d c) (N + 1) →
    (s.speed = false → N = 960 * s.cfg.k) ∧
    (∀ n, n < N → ∃ t, s.After (n + 1) t ∧ t.busy = true ∧ t.drive = decide (n < s.timingSet.rstL * s.cfg.k) ∧
      t.phase = (if n < s.timingSet.rstL * s.cfg.k then .rstL
        else if n < (s.timingSet.rstL + s.timingSet.pds) * s.cfg.k then .rstW else .rstS) ∧
      t.ppd = s.ppd ∧ t.crc = s.crc ∧ t.rdata = s.rdata) ∧
    ∃ t, s.After (N + 1) t ∧ t.busy = false ∧ t.drive = false ∧
      t.ppd = s.slvAt ((s.timingSet.rstL + s.timingSet.pds) * s.cfg.k - s.cfg.syncStages) ∧
      t.crc = s.crc ∧ t.rdata = s.rdata

/-- WRBIT, R106 and R107: a 1 is a low pulse of `T.w1L` and `T.w1H` released, a 0 one of `T.w0L` and `T.w0H` released;
at the end the CRC takes the bit written if CRCEN is set; PPD and RDATA are unchanged. Nothing the slaves do
matters. Under `T_STD` either takes 70 microseconds. -/
def Obligations.WrbitTimeline : Prop :=
  ∀ (s : State) (d : Byte) (c b : Bool) (L N : Nat), b = d.getLsbD 0 →
    L = (if b then s.timingSet.w1L else s.timingSet.w0L) * s.cfg.k →
    N = L + (if b then s.timingSet.w1H else s.timingSet.w0H) * s.cfg.k →
    s.Starts (.wrbit d c) (N + 1) →
    (s.speed = false → N = 70 * s.cfg.k) ∧
    (∀ n, n < N → ∃ t, s.After (n + 1) t ∧ t.busy = true ∧ t.drive = decide (n < L) ∧
      t.ppd = s.ppd ∧ t.crc = s.crc ∧ t.rdata = s.rdata) ∧
    ∃ t, s.After (N + 1) t ∧ t.busy = false ∧ t.drive = false ∧ t.ppd = s.ppd ∧ t.rdata = s.rdata ∧
      t.crc = if c then crcStep s.crc b else s.crc

/-- RDBIT, R108 and R109: the line is driven low for `T.rL`, released, sampled at `(T.rL + T.rS)*K`, seeing the line
`SYNC` edges earlier, and after `T.rT` more RDATA is 0x00 if a slave pulled the line low there and 0x01 if not, the CRC
takes the same bit if CRCEN is set; until then RDATA and CRC keep their values; PPD is unchanged. Under
`T_STD` the slot takes 64 microseconds. -/
def Obligations.RdbitTimeline : Prop :=
  ∀ (s : State) (d : Byte) (c bit : Bool) (N : Nat),
    N = (s.timingSet.rL + s.timingSet.rS + s.timingSet.rT) * s.cfg.k →
    bit = !s.slvAt ((s.timingSet.rL + s.timingSet.rS) * s.cfg.k - s.cfg.syncStages) →
    s.Starts (.rdbit d c) (N + 1) →
    (s.speed = false → N = 64 * s.cfg.k) ∧
    (∀ n, n < N → ∃ t, s.After (n + 1) t ∧ t.busy = true ∧ t.drive = decide (n < s.timingSet.rL * s.cfg.k) ∧
      t.phase = (if n < s.timingSet.rL * s.cfg.k then .rL
        else if n < (s.timingSet.rL + s.timingSet.rS) * s.cfg.k then .rS else .rT) ∧
      t.ppd = s.ppd ∧ t.crc = s.crc ∧ t.rdata = s.rdata) ∧
    ∃ t, s.After (N + 1) t ∧ t.busy = false ∧ t.drive = false ∧ t.ppd = s.ppd ∧
      t.rdata = (if bit then 0x01 else 0x00) ∧ t.crc = if c then crcStep s.crc bit else s.crc

/-- WRBYTE, R131 and R132: eight write slots back to back, slot `j` starting `sum_{i<j} S(x[i])` microseconds after the
acceptance edge and driving low for `T.w1L` or `T.w0L` by bit `j` of the byte, bit 0 first; with CRCEN the CRC takes
bit `j` at the end of slot `j`; PPD and RDATA are unchanged. Under `T_STD` slot `j` starts at `70*j` and the command takes
560 microseconds. -/
def Obligations.WrbyteTimeline : Prop :=
  ∀ (s : State) (x : Byte) (c : Bool) (start : Nat → Nat),
    (∀ j, start j = ((List.range j).map fun i =>
      if x.getLsbD i then s.timingSet.w1L + s.timingSet.w1H else s.timingSet.w0L + s.timingSet.w0H).sum) →
    s.Starts (.wrbyte x c) (start 8 * s.cfg.k + 1) →
    (s.speed = false → ∀ j, j ≤ 8 → start j = 70 * j) ∧
    (∀ j n, j < 8 → start j * s.cfg.k + n < start (j + 1) * s.cfg.k →
      ∃ t, s.After (start j * s.cfg.k + n + 1) t ∧ t.busy = true ∧
        t.drive = decide (n < (if x.getLsbD j then s.timingSet.w1L else s.timingSet.w0L) * s.cfg.k) ∧
        t.crc = (if c then crcBits s.crc x j else s.crc) ∧ t.ppd = s.ppd ∧ t.rdata = s.rdata) ∧
    ∃ t, s.After (start 8 * s.cfg.k + 1) t ∧ t.busy = false ∧ t.drive = false ∧
      t.crc = (if c then crcByte s.crc x else s.crc) ∧ t.ppd = s.ppd ∧ t.rdata = s.rdata

/-- RDBYTE, R133 to R135: eight read slots back to back; bit `j` of RDATA is 0 exactly if a slave pulled the line low at
the sample of slot `j`, `SYNC` edges before `(j*slot + T.rL + T.rS)*K`; with CRCEN the CRC takes the bits in that
order; RDATA keeps the previous value until the finish edge; PPD is unchanged. Under `T_STD` a slot takes 64 microseconds. -/
def Obligations.RdbyteTimeline : Prop :=
  ∀ (s : State) (d x : Byte) (c : Bool) (slot : Nat),
    slot = s.timingSet.rL + s.timingSet.rS + s.timingSet.rT →
    (∀ j, j < 8 → x.getLsbD j =
      !s.slvAt ((j * slot + s.timingSet.rL + s.timingSet.rS) * s.cfg.k - s.cfg.syncStages)) →
    s.Starts (.rdbyte d c) (8 * slot * s.cfg.k + 1) →
    (s.speed = false → slot = 64) ∧
    (∀ j n, j < 8 → n < slot * s.cfg.k →
      ∃ t, s.After (j * slot * s.cfg.k + n + 1) t ∧ t.busy = true ∧
        t.drive = decide (n < s.timingSet.rL * s.cfg.k) ∧
        t.crc = (if c then crcBits s.crc x j else s.crc) ∧ t.ppd = s.ppd ∧ t.rdata = s.rdata) ∧
    ∃ t, s.After (8 * slot * s.cfg.k + 1) t ∧ t.busy = false ∧ t.drive = false ∧
      t.rdata = x ∧ t.crc = (if c then crcByte s.crc x else s.crc) ∧ t.ppd = s.ppd

/-- The first table of R182: every command is busy for exactly the cycles the table gives it, from its acceptance edge to
its finish edge (derived from R182, whose sample offsets are in the timelines). -/
def Obligations.BusyLastsTheTableDuration : Prop :=
  ∀ (s : State) (i : Instr) (N : Nat), N = commandUs s.timingSet i * s.cfg.k → s.Starts i (N + 1) →
    (∀ n, n < N → ∃ t, s.After (n + 1) t ∧ (t.regRead 1).getLsbD 0 = true) ∧
    ∃ t, s.After (N + 1) t ∧ (t.regRead 1).getLsbD 0 = false

/-- Every command ends (R160: "no command has a timeout, and every command ends after its fixed duration"): from every
state of the invariant, whatever the host, the slaves and the reset input do, the engine is idle within twenty-four
phases of the longest duration (derived from R160). -/
def Obligations.EveryCommandEnds : Prop :=
  ∀ s : State, s.Inv → s.hostOk = true →
    ∃ n t, n ≤ 24 * maxDuration (timing s.cfg s.spd) * s.cfg.k ∧ s.After n t ∧ t.busy = false

/-- Nothing stops the machine but what the spec asks a model to refuse: with legal parameters and host moves the port can
carry, every run of every length goes on (derived from R155: the block has no traps). -/
def Obligations.TheBlockNeverStops : Prop :=
  ∀ (s : State) (n : Nat), configLegal s.cfg = true → s.hostOk = true → ∃ t, s.After n t ∧ t.cfg = s.cfg

/-- R9: a configuration with `K < 1`, with a zero duration in a timing set in use, or with `SYNC` beyond `T.rS*K - 1` or
`T.pds*K - 1` for one, is refused; and one that breaks none of these, and whose `UW` holds the durations (R7), is
not. -/
def Obligations.IllegalConfigurationsAreRefused : Prop :=
  ∀ (s : State),
    (s.cfg.k < 1 ∨ (∃ T, (T = tStd ∨ (s.cfg.odSupported = true ∧ T = s.cfg.tOd)) ∧
      ((∃ d ∈ durations T, d < 1) ∨ (s.cfg.syncStages : Int) > (T.rS * s.cfg.k : Int) - 1 ∨
        (s.cfg.syncStages : Int) > (T.pds * s.cfg.k : Int) - 1)) → step s = .refused .illegalConfig) ∧
    (s.cfg.k ≥ 1 → (∀ T, (T = tStd ∨ (s.cfg.odSupported = true ∧ T = s.cfg.tOd)) →
      (∀ d ∈ durations T, 1 ≤ d ∧ d < 2 ^ s.cfg.uw) ∧ (s.cfg.syncStages : Int) ≤ (T.rS * s.cfg.k : Int) - 1 ∧
        (s.cfg.syncStages : Int) ≤ (T.pds * s.cfg.k : Int) - 1) → step s ≠ .refused .illegalConfig)

/-- R175: no cycle exists in which the host can read BUSY = 0 for a command it has just issued, and CRCCLR is visible in
the next cycle. -/
def Obligations.BusyIsVisibleAtOnce : Prop :=
  ∀ (s t : State) (i : Instr), s.Starts i 1 → s.After 1 t →
    ((∀ d c, i ≠ .crcclr d c) → (t.regRead 1).getLsbD 0 = true) ∧
    (∀ d c, i = .crcclr d c → (t.regRead 1).getLsbD 0 = false ∧ t.regRead 3 = 0 ∧ (t.regRead 1).getLsbD 2 = true)

/-- R179: a CTRL write affects only commands accepted at a later edge: at its own edge the latched mode of the engine is
unchanged, and a running engine goes on as without the write. A CTRL write followed by a CMD write in the next
cycle uses the new mode. -/
def Obligations.ModeWrittenBeforeACommandIsUsed : Prop :=
  (∀ (s t u : State) (w : Word) (slv : Bool), edge false (.write 4 w) slv s = .next t →
    edge false .none slv s = .next u → t.toEngine = u.toEngine ∧ t.spd = s.spd) ∧
  ∀ (s u t : State) (w v : Word) (i : Instr),
    s.busy = false → s.NoReset 2 → s.access = .ok (.write 4 w) → step s = .next u →
    u.access = .ok (.write 0 v) → decode v = .ok i → (∀ d c, i ≠ .crcclr d c) → step u = .next t →
    u.speed = (s.cfg.odSupported && w.getLsbD 0) ∧ t.spd = (s.cfg.odSupported && w.getLsbD 0) ∧
      t.us = dur t.phase (v.getLsbD 8) (if s.cfg.odSupported && w.getLsbD 0 then s.cfg.tOd else tStd)

/-- R181: between two commands the line is released for at least one cycle: a CMD write presented at the finish edge is
lost, and the state after that edge is idle and released whatever the access (derived from R158 and R181). -/
def Obligations.OneReleasedCycleBetweenCommands : Prop :=
  ∀ (s t : State), s.busy = true → step s = .next t → t.busy = false →
    t.drive = false ∧ t.dqOe t.rstNow = false ∧
    (∀ v, s.rstNow = false → s.access = .ok (.write 0 v) → t.ovr = true)

/-! ## The CRC-8 verifier -/

/-- R140: one update of the register by one bit, on the value: shift right, and exclusive or with 0x8C when the bit
shifted out differs from the data bit. -/
def Obligations.CrcStepIsTheReflectedPolynomial : Prop :=
  ∀ (c : Byte) (b : Bool), (crcStep c b).toNat =
    if c.toNat % 2 = 1 ↔ b = true then c.toNat / 2 else (c.toNat / 2) ^^^ 0x8C

/-- R145: a message followed by its own CRC leaves the register at 0x00, and no other last byte does: CRCOK is 1 if and
only if the CRC byte matches the bytes before it (derived from R145, whose host procedure is not stated here). -/
def Obligations.CrcVerifiesAMessage : Prop :=
  ∀ (m : List Byte) (r : Byte), crcBytes 0 (m ++ [r]) = 0 ↔ r = crcBytes 0 m

/-! ## What no one can see -/

/-- The slaves cannot reach a write command: whatever they draw, the engine, the flags and the host go on alike until the
command ends (derived from R102: "no collision detection on writes"). -/
def Obligations.SlavesCannotDisturbAWrite : Prop :=
  ∀ (s s' : State) (x : Byte) (c : Bool) (l : List Bool) (i : Instr) (n : Nat) (t t' : State),
    (i = .wrbyte x c ∨ i = .wrbit x c) → n ≤ commandUs s.timingSet i * s.cfg.k + 1 →
    s.Starts i n → s' = { s with slvIn := l } → s.After n t → s'.After n t' →
    t'.toEngine = t.toEngine ∧ t'.ill = t.ill ∧ t'.ovr = t.ovr ∧ t'.speed = t.speed ∧ t'.host = t.host ∧
      t'.binds = t.binds

/-- The hidden fields that are not meaningful while idle (93_implementation_defined.md U16) are never seen: two idle
blocks that differ in them only give the same reads and the same drive output after every run. -/
def Obligations.IdleHiddenFieldsAreNeverSeen : Prop :=
  ∀ (s s' : State) (op : Op) (c m : Bool) (d sh : Byte) (j : Fin 8) (smp : Bool) (n : Nat) (t t' : State),
    s.busy = false →
    s' = { s with op := op, crcen := c, spd := m, data := d, bitIdx := j, sh := sh, smp := smp } →
    s.After n t → s'.After n t' →
    t'.drive = t.drive ∧ (∀ i : Fin 8, t'.regRead i = t.regRead i) ∧ t'.binds = t.binds ∧ t'.host = t.host

/-! ## The host agent -/

/-- How the moves of a host program take their cycles: `W` and `R` one, `R` binding the value of R53, `POLL` one per read
until BUSY is 0, `IDLE n` n (derived from R80). Two clauses are the model's reading and no rule: that `IDLE 0` takes no
cycle and is passed over (log entry 13, DEDUCED), and that the `R` clause has no premise on `rst`, a read in a cycle with
`rst` asserted binding the value of R53 as any other (log entry 8, DEDUCED). -/
def Obligations.HostMovesTakeTheirCycles : Prop :=
  ∀ (s : State) (rest : List HostMove), configLegal s.cfg = true →
    (∀ i v, s.host = .write i v :: rest → ∃ t, step s = .next t ∧ t.host = rest ∧ t.binds = s.binds) ∧
    (∀ i name, s.host = .read i name :: rest → ∃ t, step s = .next t ∧ t.host = rest ∧
      t.binds = (name, s.regRead i) :: s.binds) ∧
    (s.host = .poll :: rest → ∃ t, step s = .next t ∧ t.binds = s.binds ∧
      t.host = if (s.regRead 1).getLsbD 0 then .poll :: rest else rest) ∧
    (∀ n, s.host = .idle (n + 1) :: rest → ∃ t, step s = .next t ∧ t.host = .idle n :: rest ∧ t.binds = s.binds) ∧
    (s.host = .idle 0 :: rest → step s = step { s with host := rest })

/-- The two further reads of the host language take one cycle each: `R <reg>` with no name binds nothing, and a read that
ends a pseudo-instruction binds the word to `t` and its bits hi to lo to the result's name (derived from R80 and R81).
That `R` may stand with no name is the model's reading (log entry 16, DEDUCED), and so is that a read in a cycle with
`rst` asserted binds as any other (log entry 8, DEDUCED). -/
def Obligations.BareReadsAndPartReadsTakeOneCycle : Prop :=
  ∀ (s : State) (rest : List HostMove), configLegal s.cfg = true →
    (∀ i, s.host = .look i :: rest → ∃ u, step s = .next u ∧ u.host = rest ∧ u.binds = s.binds) ∧
    (∀ i t name hi lo, s.host = .readPart i t name hi lo :: rest → ∃ u, step s = .next u ∧ u.host = rest ∧
      u.binds = (name, BitVec.ofNat 32 ((s.regRead i).toNat / 2 ^ lo % 2 ^ (hi - lo + 1))) :: (t, s.regRead i) :: s.binds)

/-- The results of R81: the last move of `PRESENCE -> p` binds `p` to PPD, of `RDB -> x` and `RDB.C -> x` binds `x` to the
byte of RDATA, and `CRCCHK -> ok` binds `ok` to CRCOK, each beside the word `t` it read and in the cycle of that read
(derived from R81, R24 and R30, the whole expansions being the next statement). That a read in a cycle with `rst` asserted
binds as any other is the model's reading (log entry 8, DEDUCED). -/
def Obligations.PseudoInstructionResultsAreBound : Prop :=
  ∀ (s : State) (m : HostMove) (rest : List HostMove), configLegal s.cfg = true → s.host = m :: rest →
    (∀ p, (Pseudo.presence p).expand.getLast? = some m → ∃ u, step s = .next u ∧ u.host = rest ∧
      u.binds = (p, if s.ppd then 1 else 0) :: ("t", s.regRead 1) :: s.binds) ∧
    (∀ c x, (Pseudo.rdb c x).expand.getLast? = some m → ∃ u, step s = .next u ∧ u.host = rest ∧
      u.binds = (x, BitVec.ofNat 32 s.rdata.toNat) :: ("t", s.regRead 2) :: s.binds) ∧
    (∀ ok, (Pseudo.crcchk ok).expand = [m] → ∃ u, step s = .next u ∧ u.host = rest ∧
      u.binds = (ok, if s.crc = 0 then 1 else 0) :: ("t", s.regRead 1) :: s.binds)

/-- R81: every pseudo-instruction and its expansion, and what the result's name is bound to when the expansion's read
returns `t`: `t[1]`, `t[7:0]`, `t[2]`. -/
def Obligations.PseudoInstructionsExpandAsTheTableSays : Prop :=
  Pseudo.skiprom.expand = [.write 0 0x0000CC04] ∧ Pseudo.readrom.expand = [.write 0 0x00003304] ∧
  Pseudo.matchrom.expand = [.write 0 0x00005504] ∧ Pseudo.searchrom.expand = [.write 0 0x0000F004] ∧
  (∀ i : Instr, (Pseudo.cmdw i).expand = [.write 0 (encode i), .poll]) ∧
  (∀ (p : String) (t : Word), (Pseudo.presence p).expand = [.write 0 0x00000001, .poll, .readPart 1 "t" p 1 1] ∧
    (Pseudo.presence p).value t = bitsOf t 1 1 ∧ (bitsOf t 1 1).toNat = (t.getLsbD 1).toNat) ∧
  (∀ (x : String) (t : Word), (Pseudo.rdb false x).expand = [.write 0 0x00000005, .poll, .readPart 2 "t" x 7 0] ∧
    (Pseudo.rdb true x).expand = [.write 0 0x00000015, .poll, .readPart 2 "t" x 7 0] ∧
    (∀ c, (Pseudo.rdb c x).value t = bitsOf t 7 0) ∧ (bitsOf t 7 0).toNat = t.toNat % 256) ∧
  (∀ (ok : String) (t : Word), (Pseudo.crcchk ok).expand = [.readPart 1 "t" ok 2 2] ∧
    (Pseudo.crcchk ok).value t = bitsOf t 2 2 ∧ (bitsOf t 2 2).toNat = (t.getLsbD 2).toNat) ∧
  Pseudo.clrerr.expand = [.write 1 0x00000018]
end

