-- ==== Sys2Proof/Laws/State.lean ====
section
/-! SUPPORT. One lemma per field per update of `Engine` and `State`, each true by unfolding the update once, so that later
proofs unfold no record update. -/

namespace Sys2Proof.Machine

/-! ### `Engine.enter` -/

@[simp] theorem Engine.enter_ppd (P : Phase) (b : Bool) (T : TimingSet) (e : Engine) : (e.enter P b T).ppd = e.ppd := rfl
@[simp] theorem Engine.enter_rdata (P : Phase) (b : Bool) (T : TimingSet) (e : Engine) : (e.enter P b T).rdata = e.rdata := rfl
@[simp] theorem Engine.enter_crc (P : Phase) (b : Bool) (T : TimingSet) (e : Engine) : (e.enter P b T).crc = e.crc := rfl
@[simp] theorem Engine.enter_phase (P : Phase) (b : Bool) (T : TimingSet) (e : Engine) : (e.enter P b T).phase = P := rfl
@[simp] theorem Engine.enter_op (P : Phase) (b : Bool) (T : TimingSet) (e : Engine) : (e.enter P b T).op = e.op := rfl
@[simp] theorem Engine.enter_crcen (P : Phase) (b : Bool) (T : TimingSet) (e : Engine) : (e.enter P b T).crcen = e.crcen := rfl
@[simp] theorem Engine.enter_spd (P : Phase) (b : Bool) (T : TimingSet) (e : Engine) : (e.enter P b T).spd = e.spd := rfl
@[simp] theorem Engine.enter_data (P : Phase) (b : Bool) (T : TimingSet) (e : Engine) : (e.enter P b T).data = e.data := rfl
@[simp] theorem Engine.enter_bitIdx (P : Phase) (b : Bool) (T : TimingSet) (e : Engine) : (e.enter P b T).bitIdx = e.bitIdx := rfl
@[simp] theorem Engine.enter_sh (P : Phase) (b : Bool) (T : TimingSet) (e : Engine) : (e.enter P b T).sh = e.sh := rfl
@[simp] theorem Engine.enter_smp (P : Phase) (b : Bool) (T : TimingSet) (e : Engine) : (e.enter P b T).smp = e.smp := rfl
@[simp] theorem Engine.enter_pre (P : Phase) (b : Bool) (T : TimingSet) (e : Engine) : (e.enter P b T).pre = 0 := rfl
@[simp] theorem Engine.enter_us (P : Phase) (b : Bool) (T : TimingSet) (e : Engine) : (e.enter P b T).us = dur P b T := rfl
@[simp] theorem Engine.enter_drive (P : Phase) (b : Bool) (T : TimingSet) (e : Engine) : (e.enter P b T).drive = drv P := rfl

/-! ### `Engine.finish` -/

@[simp] theorem Engine.finish_ppd (e : Engine) : (e.finish).ppd = e.ppd := rfl
@[simp] theorem Engine.finish_rdata (e : Engine) : (e.finish).rdata = e.rdata := rfl
@[simp] theorem Engine.finish_crc (e : Engine) : (e.finish).crc = e.crc := rfl
@[simp] theorem Engine.finish_phase (e : Engine) : (e.finish).phase = .idle := rfl
@[simp] theorem Engine.finish_op (e : Engine) : (e.finish).op = e.op := rfl
@[simp] theorem Engine.finish_crcen (e : Engine) : (e.finish).crcen = e.crcen := rfl
@[simp] theorem Engine.finish_spd (e : Engine) : (e.finish).spd = e.spd := rfl
@[simp] theorem Engine.finish_data (e : Engine) : (e.finish).data = e.data := rfl
@[simp] theorem Engine.finish_bitIdx (e : Engine) : (e.finish).bitIdx = e.bitIdx := rfl
@[simp] theorem Engine.finish_sh (e : Engine) : (e.finish).sh = e.sh := rfl
@[simp] theorem Engine.finish_smp (e : Engine) : (e.finish).smp = e.smp := rfl
@[simp] theorem Engine.finish_pre (e : Engine) : (e.finish).pre = 0 := rfl
@[simp] theorem Engine.finish_us (e : Engine) : (e.finish).us = 0 := rfl
@[simp] theorem Engine.finish_drive (e : Engine) : (e.finish).drive = false := rfl

/-! ### `Engine.feedCrc` -/

@[simp] theorem Engine.feedCrc_ppd (x : Bool) (e : Engine) : (e.feedCrc x).ppd = e.ppd := rfl
@[simp] theorem Engine.feedCrc_rdata (x : Bool) (e : Engine) : (e.feedCrc x).rdata = e.rdata := rfl
@[simp] theorem Engine.feedCrc_crc (x : Bool) (e : Engine) : (e.feedCrc x).crc = (if e.crcen then crcStep e.crc x else e.crc) := rfl
@[simp] theorem Engine.feedCrc_phase (x : Bool) (e : Engine) : (e.feedCrc x).phase = e.phase := rfl
@[simp] theorem Engine.feedCrc_op (x : Bool) (e : Engine) : (e.feedCrc x).op = e.op := rfl
@[simp] theorem Engine.feedCrc_crcen (x : Bool) (e : Engine) : (e.feedCrc x).crcen = e.crcen := rfl
@[simp] theorem Engine.feedCrc_spd (x : Bool) (e : Engine) : (e.feedCrc x).spd = e.spd := rfl
@[simp] theorem Engine.feedCrc_data (x : Bool) (e : Engine) : (e.feedCrc x).data = e.data := rfl
@[simp] theorem Engine.feedCrc_bitIdx (x : Bool) (e : Engine) : (e.feedCrc x).bitIdx = e.bitIdx := rfl
@[simp] theorem Engine.feedCrc_sh (x : Bool) (e : Engine) : (e.feedCrc x).sh = e.sh := rfl
@[simp] theorem Engine.feedCrc_smp (x : Bool) (e : Engine) : (e.feedCrc x).smp = e.smp := rfl
@[simp] theorem Engine.feedCrc_pre (x : Bool) (e : Engine) : (e.feedCrc x).pre = e.pre := rfl
@[simp] theorem Engine.feedCrc_us (x : Bool) (e : Engine) : (e.feedCrc x).us = e.us := rfl
@[simp] theorem Engine.feedCrc_drive (x : Bool) (e : Engine) : (e.feedCrc x).drive = e.drive := rfl

/-! ### `Engine.feedShift` -/

@[simp] theorem Engine.feedShift_ppd (x : Bool) (e : Engine) : (e.feedShift x).ppd = e.ppd := rfl
@[simp] theorem Engine.feedShift_rdata (x : Bool) (e : Engine) : (e.feedShift x).rdata = e.rdata := rfl
@[simp] theorem Engine.feedShift_crc (x : Bool) (e : Engine) : (e.feedShift x).crc = e.crc := rfl
@[simp] theorem Engine.feedShift_phase (x : Bool) (e : Engine) : (e.feedShift x).phase = e.phase := rfl
@[simp] theorem Engine.feedShift_op (x : Bool) (e : Engine) : (e.feedShift x).op = e.op := rfl
@[simp] theorem Engine.feedShift_crcen (x : Bool) (e : Engine) : (e.feedShift x).crcen = e.crcen := rfl
@[simp] theorem Engine.feedShift_spd (x : Bool) (e : Engine) : (e.feedShift x).spd = e.spd := rfl
@[simp] theorem Engine.feedShift_data (x : Bool) (e : Engine) : (e.feedShift x).data = e.data := rfl
@[simp] theorem Engine.feedShift_bitIdx (x : Bool) (e : Engine) : (e.feedShift x).bitIdx = e.bitIdx := rfl
@[simp] theorem Engine.feedShift_sh (x : Bool) (e : Engine) : (e.feedShift x).sh = (if e.op.reads then shiftIn x e.sh else e.sh) := rfl
@[simp] theorem Engine.feedShift_smp (x : Bool) (e : Engine) : (e.feedShift x).smp = e.smp := rfl
@[simp] theorem Engine.feedShift_pre (x : Bool) (e : Engine) : (e.feedShift x).pre = e.pre := rfl
@[simp] theorem Engine.feedShift_us (x : Bool) (e : Engine) : (e.feedShift x).us = e.us := rfl
@[simp] theorem Engine.feedShift_drive (x : Bool) (e : Engine) : (e.feedShift x).drive = e.drive := rfl

/-! ### `Engine.publish` -/

@[simp] theorem Engine.publish_ppd (x : Bool) (e : Engine) : (e.publish x).ppd = e.ppd := rfl
@[simp] theorem Engine.publish_rdata (x : Bool) (e : Engine) : (e.publish x).rdata = (match e.op with | .rdbit => bitToByte x | .rdbyte => shiftIn x e.sh | _ => e.rdata) := rfl
@[simp] theorem Engine.publish_crc (x : Bool) (e : Engine) : (e.publish x).crc = e.crc := rfl
@[simp] theorem Engine.publish_phase (x : Bool) (e : Engine) : (e.publish x).phase = e.phase := rfl
@[simp] theorem Engine.publish_op (x : Bool) (e : Engine) : (e.publish x).op = e.op := rfl
@[simp] theorem Engine.publish_crcen (x : Bool) (e : Engine) : (e.publish x).crcen = e.crcen := rfl
@[simp] theorem Engine.publish_spd (x : Bool) (e : Engine) : (e.publish x).spd = e.spd := rfl
@[simp] theorem Engine.publish_data (x : Bool) (e : Engine) : (e.publish x).data = e.data := rfl
@[simp] theorem Engine.publish_bitIdx (x : Bool) (e : Engine) : (e.publish x).bitIdx = e.bitIdx := rfl
@[simp] theorem Engine.publish_sh (x : Bool) (e : Engine) : (e.publish x).sh = e.sh := rfl
@[simp] theorem Engine.publish_smp (x : Bool) (e : Engine) : (e.publish x).smp = e.smp := rfl
@[simp] theorem Engine.publish_pre (x : Bool) (e : Engine) : (e.publish x).pre = e.pre := rfl
@[simp] theorem Engine.publish_us (x : Bool) (e : Engine) : (e.publish x).us = e.us := rfl
@[simp] theorem Engine.publish_drive (x : Bool) (e : Engine) : (e.publish x).drive = e.drive := rfl

/-! ### `Engine.latch` -/

@[simp] theorem Engine.latch_ppd (op : Op) (c : Bool) (d : Byte) (m : Bool) (e : Engine) : (e.latch op c d m).ppd = e.ppd := rfl
@[simp] theorem Engine.latch_rdata (op : Op) (c : Bool) (d : Byte) (m : Bool) (e : Engine) : (e.latch op c d m).rdata = e.rdata := rfl
@[simp] theorem Engine.latch_crc (op : Op) (c : Bool) (d : Byte) (m : Bool) (e : Engine) : (e.latch op c d m).crc = e.crc := rfl
@[simp] theorem Engine.latch_phase (op : Op) (c : Bool) (d : Byte) (m : Bool) (e : Engine) : (e.latch op c d m).phase = e.phase := rfl
@[simp] theorem Engine.latch_op (op : Op) (c : Bool) (d : Byte) (m : Bool) (e : Engine) : (e.latch op c d m).op = op := rfl
@[simp] theorem Engine.latch_crcen (op : Op) (c : Bool) (d : Byte) (m : Bool) (e : Engine) : (e.latch op c d m).crcen = c := rfl
@[simp] theorem Engine.latch_spd (op : Op) (c : Bool) (d : Byte) (m : Bool) (e : Engine) : (e.latch op c d m).spd = m := rfl
@[simp] theorem Engine.latch_data (op : Op) (c : Bool) (d : Byte) (m : Bool) (e : Engine) : (e.latch op c d m).data = d := rfl
@[simp] theorem Engine.latch_bitIdx (op : Op) (c : Bool) (d : Byte) (m : Bool) (e : Engine) : (e.latch op c d m).bitIdx = 0 := rfl
@[simp] theorem Engine.latch_sh (op : Op) (c : Bool) (d : Byte) (m : Bool) (e : Engine) : (e.latch op c d m).sh = 0 := rfl
@[simp] theorem Engine.latch_smp (op : Op) (c : Bool) (d : Byte) (m : Bool) (e : Engine) : (e.latch op c d m).smp = e.smp := rfl
@[simp] theorem Engine.latch_pre (op : Op) (c : Bool) (d : Byte) (m : Bool) (e : Engine) : (e.latch op c d m).pre = e.pre := rfl
@[simp] theorem Engine.latch_us (op : Op) (c : Bool) (d : Byte) (m : Bool) (e : Engine) : (e.latch op c d m).us = e.us := rfl
@[simp] theorem Engine.latch_drive (op : Op) (c : Bool) (d : Byte) (m : Bool) (e : Engine) : (e.latch op c d m).drive = e.drive := rfl

/-! ### `State.clearFlags` -/

@[simp] theorem State.clearFlags_toEngine (v : Word) (s : State) : (s.clearFlags v).toEngine = s.toEngine := rfl
@[simp] theorem State.clearFlags_toSurroundings (v : Word) (s : State) : (s.clearFlags v).toSurroundings = s.toSurroundings := rfl
@[simp] theorem State.clearFlags_ill (v : Word) (s : State) : (s.clearFlags v).ill = (s.ill && !v.getLsbD 3) := rfl
@[simp] theorem State.clearFlags_ovr (v : Word) (s : State) : (s.clearFlags v).ovr = (s.ovr && !v.getLsbD 4) := rfl
@[simp] theorem State.clearFlags_speed (v : Word) (s : State) : (s.clearFlags v).speed = s.speed := rfl
@[simp] theorem State.clearFlags_cfg (v : Word) (s : State) : (s.clearFlags v).cfg = s.cfg := rfl
@[simp] theorem State.clearFlags_sync (v : Word) (s : State) : (s.clearFlags v).sync = s.sync := rfl

/-! ### `State.accept` -/

@[simp] theorem State.accept_toEngine (op : Op) (c : Bool) (d : Byte) (P : Phase) (b : Bool) (s : State) : (s.accept op c d P b).toEngine = (s.toEngine.latch op c d s.speed).enter P b (timing s.cfg s.speed) := rfl
@[simp] theorem State.accept_toSurroundings (op : Op) (c : Bool) (d : Byte) (P : Phase) (b : Bool) (s : State) : (s.accept op c d P b).toSurroundings = s.toSurroundings := rfl
@[simp] theorem State.accept_ill (op : Op) (c : Bool) (d : Byte) (P : Phase) (b : Bool) (s : State) : (s.accept op c d P b).ill = s.ill := rfl
@[simp] theorem State.accept_ovr (op : Op) (c : Bool) (d : Byte) (P : Phase) (b : Bool) (s : State) : (s.accept op c d P b).ovr = s.ovr := rfl
@[simp] theorem State.accept_speed (op : Op) (c : Bool) (d : Byte) (P : Phase) (b : Bool) (s : State) : (s.accept op c d P b).speed = s.speed := rfl
@[simp] theorem State.accept_cfg (op : Op) (c : Bool) (d : Byte) (P : Phase) (b : Bool) (s : State) : (s.accept op c d P b).cfg = s.cfg := rfl
@[simp] theorem State.accept_sync (op : Op) (c : Bool) (d : Byte) (P : Phase) (b : Bool) (s : State) : (s.accept op c d P b).sync = s.sync := rfl

/-! ### `State.shiftSync` -/

@[simp] theorem State.shiftSync_toEngine (ln : Bool) (s : State) : (s.shiftSync ln).toEngine = s.toEngine := rfl
@[simp] theorem State.shiftSync_toSurroundings (ln : Bool) (s : State) : (s.shiftSync ln).toSurroundings = s.toSurroundings := rfl
@[simp] theorem State.shiftSync_ill (ln : Bool) (s : State) : (s.shiftSync ln).ill = s.ill := rfl
@[simp] theorem State.shiftSync_ovr (ln : Bool) (s : State) : (s.shiftSync ln).ovr = s.ovr := rfl
@[simp] theorem State.shiftSync_speed (ln : Bool) (s : State) : (s.shiftSync ln).speed = s.speed := rfl
@[simp] theorem State.shiftSync_cfg (ln : Bool) (s : State) : (s.shiftSync ln).cfg = s.cfg := rfl
@[simp] theorem State.shiftSync_sync (ln : Bool) (s : State) : (s.shiftSync ln).sync = (ln :: s.sync).take s.sync.length := rfl

/-! ### `State.writeCtrl` -/

@[simp] theorem State.writeCtrl_toEngine (v : Word) (s : State) : (s.writeCtrl v).toEngine = s.toEngine := rfl
@[simp] theorem State.writeCtrl_toSurroundings (v : Word) (s : State) : (s.writeCtrl v).toSurroundings = s.toSurroundings := rfl
@[simp] theorem State.writeCtrl_ill (v : Word) (s : State) : (s.writeCtrl v).ill = s.ill := rfl
@[simp] theorem State.writeCtrl_ovr (v : Word) (s : State) : (s.writeCtrl v).ovr = s.ovr := rfl
@[simp] theorem State.writeCtrl_speed (v : Word) (s : State) : (s.writeCtrl v).speed = speedFrom s.cfg v := rfl
@[simp] theorem State.writeCtrl_cfg (v : Word) (s : State) : (s.writeCtrl v).cfg = s.cfg := rfl
@[simp] theorem State.writeCtrl_sync (v : Word) (s : State) : (s.writeCtrl v).sync = s.sync := rfl

/-! ### `State.advance` -/

@[simp] theorem State.advance_toEngine (lv : Bool) (s : State) : (s.advance lv).toEngine = s.toEngine.advance s.cfg lv := rfl
@[simp] theorem State.advance_toSurroundings (lv : Bool) (s : State) : (s.advance lv).toSurroundings = s.toSurroundings := rfl
@[simp] theorem State.advance_ill (lv : Bool) (s : State) : (s.advance lv).ill = s.ill := rfl
@[simp] theorem State.advance_ovr (lv : Bool) (s : State) : (s.advance lv).ovr = s.ovr := rfl
@[simp] theorem State.advance_speed (lv : Bool) (s : State) : (s.advance lv).speed = s.speed := rfl
@[simp] theorem State.advance_cfg (lv : Bool) (s : State) : (s.advance lv).cfg = s.cfg := rfl
@[simp] theorem State.advance_sync (lv : Bool) (s : State) : (s.advance lv).sync = s.sync := rfl

/-! ### `State.toReset` -/

@[simp] theorem State.toReset_toEngine (s : State) : (s.toReset).toEngine = Engine.reset := rfl
@[simp] theorem State.toReset_toSurroundings (s : State) : (s.toReset).toSurroundings = s.toSurroundings := rfl
@[simp] theorem State.toReset_ill (s : State) : (s.toReset).ill = false := rfl
@[simp] theorem State.toReset_ovr (s : State) : (s.toReset).ovr = false := rfl
@[simp] theorem State.toReset_speed (s : State) : (s.toReset).speed = false := rfl
@[simp] theorem State.toReset_cfg (s : State) : (s.toReset).cfg = s.cfg := rfl
@[simp] theorem State.toReset_sync (s : State) : (s.toReset).sync = List.replicate s.cfg.syncStages true := rfl

/-! ### `State.passCycle` -/

@[simp] theorem State.passCycle_toEngine (s : State) : (s.passCycle).toEngine = s.toEngine := rfl
@[simp] theorem State.passCycle_ill (s : State) : (s.passCycle).ill = s.ill := rfl
@[simp] theorem State.passCycle_ovr (s : State) : (s.passCycle).ovr = s.ovr := rfl
@[simp] theorem State.passCycle_speed (s : State) : (s.passCycle).speed = s.speed := rfl
@[simp] theorem State.passCycle_cfg (s : State) : (s.passCycle).cfg = s.cfg := rfl
@[simp] theorem State.passCycle_sync (s : State) : (s.passCycle).sync = s.sync := rfl

@[simp] theorem State.clearCrc_ppd (s : State) : s.clearCrc.ppd = s.ppd := rfl
@[simp] theorem State.clearCrc_rdata (s : State) : s.clearCrc.rdata = s.rdata := rfl
@[simp] theorem State.clearCrc_crc (s : State) : s.clearCrc.crc = 0 := rfl
@[simp] theorem State.clearCrc_phase (s : State) : s.clearCrc.phase = s.phase := rfl
@[simp] theorem State.clearCrc_op (s : State) : s.clearCrc.op = s.op := rfl
@[simp] theorem State.clearCrc_crcen (s : State) : s.clearCrc.crcen = s.crcen := rfl
@[simp] theorem State.clearCrc_spd (s : State) : s.clearCrc.spd = s.spd := rfl
@[simp] theorem State.clearCrc_data (s : State) : s.clearCrc.data = s.data := rfl
@[simp] theorem State.clearCrc_bitIdx (s : State) : s.clearCrc.bitIdx = s.bitIdx := rfl
@[simp] theorem State.clearCrc_sh (s : State) : s.clearCrc.sh = s.sh := rfl
@[simp] theorem State.clearCrc_smp (s : State) : s.clearCrc.smp = s.smp := rfl
@[simp] theorem State.clearCrc_pre (s : State) : s.clearCrc.pre = s.pre := rfl
@[simp] theorem State.clearCrc_us (s : State) : s.clearCrc.us = s.us := rfl
@[simp] theorem State.clearCrc_drive (s : State) : s.clearCrc.drive = s.drive := rfl
@[simp] theorem State.clearCrc_toSurroundings (s : State) : s.clearCrc.toSurroundings = s.toSurroundings := rfl
@[simp] theorem State.clearCrc_ill (s : State) : s.clearCrc.ill = s.ill := rfl
@[simp] theorem State.clearCrc_ovr (s : State) : s.clearCrc.ovr = s.ovr := rfl
@[simp] theorem State.clearCrc_speed (s : State) : s.clearCrc.speed = s.speed := rfl
@[simp] theorem State.clearCrc_cfg (s : State) : s.clearCrc.cfg = s.cfg := rfl
@[simp] theorem State.clearCrc_sync (s : State) : s.clearCrc.sync = s.sync := rfl

/-! ### `State.passCycle` over the surroundings -/

@[simp] theorem State.passCycle_host (s : State) : s.passCycle.host = s.movesLeft := rfl
@[simp] theorem State.passCycle_binds (s : State) : s.passCycle.binds = s.bindsAfter := rfl
@[simp] theorem State.passCycle_rstIn (s : State) : s.passCycle.rstIn = s.rstIn.tail := rfl
@[simp] theorem State.passCycle_slvIn (s : State) : s.passCycle.slvIn = s.slvIn.tail := rfl
@[simp] theorem State.passCycle_cycle (s : State) : s.passCycle.cycle = s.cycle + 1 := rfl

/-! ### `State.flag` -/

@[simp] theorem State.flag_toEngine (ev : Event) (s : State) : (s.flag ev).toEngine = s.toEngine := by cases ev <;> rfl
@[simp] theorem State.flag_toSurroundings (ev : Event) (s : State) : (s.flag ev).toSurroundings = s.toSurroundings := by cases ev <;> rfl
@[simp] theorem State.flag_speed (ev : Event) (s : State) : (s.flag ev).speed = s.speed := by cases ev <;> rfl
@[simp] theorem State.flag_cfg (ev : Event) (s : State) : (s.flag ev).cfg = s.cfg := by cases ev <;> rfl
@[simp] theorem State.flag_sync (ev : Event) (s : State) : (s.flag ev).sync = s.sync := by cases ev <;> rfl
@[simp] theorem State.flag_ill_ill (s : State) : (s.flag .ill).ill = true := rfl
@[simp] theorem State.flag_ill_ovr (s : State) : (s.flag .ill).ovr = s.ovr := rfl
@[simp] theorem State.flag_ovr_ill (s : State) : (s.flag .ovr).ill = s.ill := rfl
@[simp] theorem State.flag_ovr_ovr (s : State) : (s.flag .ovr).ovr = true := rfl

/-! ### `busy` looks at the phase only -/

@[simp] theorem Engine.busy_eq_false (e : Engine) : e.busy = false ↔ e.phase = .idle := by
  simp [Engine.busy]

@[simp] theorem Engine.busy_eq_true (e : Engine) : e.busy = true ↔ e.phase ≠ .idle := by
  simp [Engine.busy]

theorem State.busy_def (s : State) : s.busy = s.toEngine.busy := rfl
@[simp] theorem State.shiftSync_busy (ln : Bool) (s : State) : (s.shiftSync ln).busy = s.busy := rfl
@[simp] theorem State.passCycle_busy (s : State) : s.passCycle.busy = s.busy := rfl
@[simp] theorem State.flag_busy (ev : Event) (s : State) : (s.flag ev).busy = s.busy := by cases ev <;> rfl
@[simp] theorem State.toReset_busy (s : State) : s.toReset.busy = false := rfl

end Sys2Proof.Machine
end

