-- ==== Sys2Proof/Laws/Ops.lean ====
section
/-! SUPPORT. For each shared operation one lemma saying everything it can do: the provers cite these and unfold no
operation. -/

namespace Sys2Proof.Machine

/-! ### The end of a slot and of a phase -/

/-- `nextSlot` enters a low phase of the same command, one slot further. -/
theorem Engine.nextSlot_cases (T : TimingSet) (e : Engine) :
    (e.op = .wrbyte ∧ e.nextSlot T =
      ({ e with bitIdx := nextIdx e.bitIdx } : Engine).enter .wL (slotBit e.data (nextIdx e.bitIdx)) T) ∨
    (e.op ≠ .wrbyte ∧ e.nextSlot T = ({ e with bitIdx := nextIdx e.bitIdx } : Engine).enter .rL false T) := by
  cases h : e.op <;> simp [Engine.nextSlot, h]

/-- `slotEnd` chains to the next slot, or publishes and finishes. -/
theorem Engine.slotEnd_cases (x : Bool) (T : TimingSet) (e : Engine) :
    (e.op.isByte = true ∧ e.bitIdx.val < 7 ∧ e.slotEnd x T = ((e.feedCrc x).feedShift x).nextSlot T) ∨
    ((e.op.isByte = false ∨ 7 ≤ e.bitIdx.val) ∧
      e.slotEnd x T = (((e.publish x).feedCrc x).feedShift x).finish) := by
  unfold Engine.slotEnd
  split <;> rename_i h
  · simp only [Bool.and_eq_true, decide_eq_true_eq] at h
    exact .inl ⟨h.1, h.2, rfl⟩
  · refine .inr ⟨?_, rfl⟩
    cases hb : e.op.isByte
    · exact .inl rfl
    · right; simp [hb] at h; omega

/-- The three things `advance` does (R93): count a cycle, count a microsecond, or end the phase. -/
theorem Engine.advance_cases (cfg : Config) (lv : Bool) (e : Engine) :
    (e.pre < cfg.k - 1 ∧ e.advance cfg lv = { e with pre := e.pre + 1 }) ∨
    (cfg.k - 1 ≤ e.pre ∧ 1 < e.us ∧ e.advance cfg lv = { e with pre := 0, us := e.us - 1 }) ∨
    (cfg.k - 1 ≤ e.pre ∧ e.us ≤ 1 ∧
      e.advance cfg lv = ({ e with pre := 0 } : Engine).phaseEnd lv (timing cfg e.spd)) := by
  unfold Engine.advance
  by_cases h1 : e.pre < cfg.k - 1
  · exact .inl ⟨h1, if_pos h1⟩
  · by_cases h2 : 1 < e.us
    · exact .inr (.inl ⟨by omega, h2, by rw [if_neg h1, if_pos h2]⟩)
    · exact .inr (.inr ⟨by omega, by omega, by rw [if_neg h1, if_neg h2]⟩)

/-! ### Commands -/

theorem startCommand_idle {op : Op} {c : Bool} {d : Byte} {P : Phase} {b : Bool} {s : State} (h : s.busy = false) :
    startCommand op c d P b s = .next (s.accept op c d P b) := by simp [startCommand, h]

theorem startCommand_busy {op : Op} {c : Bool} {d : Byte} {P : Phase} {b : Bool} {s : State} (h : s.busy = true) :
    startCommand op c d P b s = .next (s.flag .ovr) := by simp [startCommand, h]

/-- While busy every command is turned away with OVR (R152). -/
theorem exec_busy (i : Instr) {s : State} (h : s.busy = true) : exec i s = .next (s.flag .ovr) := by
  cases i <;> first | exact startCommand_busy h | simp [exec, execCrcclr, h]

/-- While idle a command is accepted into a phase of its own, or is CRCCLR (R99). -/
theorem exec_idle (i : Instr) {s : State} (h : s.busy = false) :
    (∃ op c P b, op.owns P = true ∧ exec i s = .next (s.accept op c i.data P b)) ∨ exec i s = .next s.clearCrc := by
  cases i with
  | reset d c => exact .inl ⟨_, _, _, _, rfl, startCommand_idle h⟩
  | wrbit d c => exact .inl ⟨_, _, _, _, rfl, startCommand_idle h⟩
  | rdbit d c => exact .inl ⟨_, _, _, _, rfl, startCommand_idle h⟩
  | wrbyte d c => exact .inl ⟨_, _, _, _, rfl, startCommand_idle h⟩
  | rdbyte d c => exact .inl ⟨_, _, _, _, rfl, startCommand_idle h⟩
  | crcclr d c => exact .inr (by simp [exec, execCrcclr, h])

/-- A command never stops the machine. -/
theorem exec_next (i : Instr) (s : State) : ∃ t, exec i s = .next t := by
  cases h : s.busy
  · rcases exec_idle i h with ⟨_, _, _, _, _, h⟩ | h <;> exact ⟨_, h⟩
  · exact ⟨_, exec_busy i h⟩

/-- What no command touches: the surroundings, the parameters, the synchroniser, ILL, SPEED and the two published
results. -/
theorem exec_frame {i : Instr} {s t : State} (h : exec i s = .next t) :
    t.toSurroundings = s.toSurroundings ∧ t.cfg = s.cfg ∧ t.sync = s.sync ∧ t.ill = s.ill ∧ t.speed = s.speed ∧
      t.ppd = s.ppd ∧ t.rdata = s.rdata := by
  cases hb : s.busy
  · rcases exec_idle i hb with ⟨_, _, _, _, _, h'⟩ | h' <;>
      (rw [h'] at h; injection h with h; subst h; simp)
  · rw [exec_busy i hb] at h; injection h with h; subst h; simp

/-! ### The host port -/

theorem command_busy (v : Word) {s : State} (h : s.busy = true) : command v s = .next (s.flag .ovr) := by
  simp [command, h]

theorem command_idle_ok {v : Word} {i : Instr} {s : State} (h : s.busy = false) (hd : decode v = .ok i) :
    command v s = exec i s := by simp [command, h, hd]

theorem command_idle_error {v : Word} {e : DecodeError} {s : State} (h : s.busy = false)
    (hd : decode v = .error e) : command v s = .next (s.flag .ill) := by simp [command, h, hd]

/-- A CMD write never stops the machine, and touches neither the surroundings nor the parameters nor the
synchroniser. -/
theorem command_next (v : Word) (s : State) :
    ∃ t, command v s = .next t ∧ t.toSurroundings = s.toSurroundings ∧ t.cfg = s.cfg ∧ t.sync = s.sync ∧
      t.speed = s.speed ∧ t.ppd = s.ppd ∧ t.rdata = s.rdata ∧ (s.busy = true → t.toEngine = s.toEngine) := by
  cases hb : s.busy
  · cases hd : decode v with
    | error e => exact ⟨_, command_idle_error hb hd, by simp⟩
    | ok i =>
      obtain ⟨t, ht⟩ := exec_next i s
      obtain ⟨h1, h2, h3, -, h5, h6, h7⟩ := exec_frame ht
      exact ⟨t, (command_idle_ok hb hd).trans ht, h1, h2, h3, h5, h6, h7, by simp⟩
  · exact ⟨_, command_busy v hb, by simp⟩

/-- An access never stops the machine. It touches neither the surroundings nor the parameters nor the synchroniser,
nor PPD nor RDATA, and while the engine is busy it leaves the whole engine alone (R62, R90). -/
theorem hostAccess_next (acc : Access) (s : State) :
    ∃ t, hostAccess acc s = .next t ∧ t.toSurroundings = s.toSurroundings ∧ t.cfg = s.cfg ∧ t.sync = s.sync ∧
      t.ppd = s.ppd ∧ t.rdata = s.rdata ∧ (s.busy = true → t.toEngine = s.toEngine) := by
  cases acc with
  | none => exact ⟨s, rfl, by simp⟩
  | read i => exact ⟨s, rfl, by simp⟩
  | write i v =>
    simp only [hostAccess, hostWrite]
    split
    · obtain ⟨t, h, h1, h2, h3, -, h5⟩ := command_next v s
      exact ⟨t, h, h1, h2, h3, h5⟩
    · exact ⟨_, rfl, by simp⟩
    · exact ⟨_, rfl, by simp⟩
    · exact ⟨s, rfl, by simp⟩

/-! ### The line and the synchroniser -/

@[simp] theorem State.shiftSync_length (ln : Bool) (s : State) : (s.shiftSync ln).sync.length = s.sync.length := by
  simp [State.shiftSync]

theorem State.seen_nil {s : State} (h : s.sync = []) (ln : Bool) : s.seen ln = ln := by simp [State.seen, h]

theorem State.seen_last {s : State} {lv : Bool} (h : s.sync.getLast? = some lv) (ln : Bool) : s.seen ln = lv := by
  simp [State.seen, h]

theorem State.line_released {s : State} (h : s.drive = false) (rst slv : Bool) : s.line rst slv = !slv := by
  simp [State.line, State.dqOe, h]

/-! ### The host agent -/

/-- The moves left are moves there were, or what is left of an IDLE. -/
theorem State.mem_movesLeft {s : State} {m : HostMove} (h : m ∈ s.movesLeft) :
    m ∈ skipIdle s.host ∨ ∃ n, m = .idle n := by
  unfold State.movesLeft at h
  split at h
  · simp at h
  · rename_i rest heq
    split at h <;> (left; simp_all)
  · rename_i n rest heq
    rcases List.mem_cons.1 h with h | h
    · exact .inr ⟨_, h⟩
    · left; simp_all
  · left; simp_all

theorem mem_skipIdle {l : List HostMove} {m : HostMove} (h : m ∈ skipIdle l) : m ∈ l := by
  fun_induction skipIdle l with
  | case1 rest ih => exact List.mem_cons_of_mem _ (ih h)
  | case2 l _ => exact h

theorem State.hostOk_iff (s : State) : s.hostOk = true ↔ ∀ m ∈ s.host, ∃ a, m.access s.cfg = .ok a := by
  unfold State.hostOk
  rw [List.all_eq_true]
  refine forall_congr' fun m => imp_congr_right fun _ => ?_
  cases m.access s.cfg <;> simp

/-- A host whose moves all have an access goes on so. -/
theorem State.hostOk_passCycle {s : State} (h : s.hostOk = true) : s.passCycle.hostOk = true := by
  rw [State.hostOk_iff] at *
  intro m hm
  rcases State.mem_movesLeft hm with hm | ⟨n, rfl⟩
  · exact h m (mem_skipIdle hm)
  · exact ⟨.none, rfl⟩

/-- A move other than `IDLE 0` at the head of a host program is the current cycle's. -/
theorem skipIdle_head {l rest : List HostMove} {m : HostMove} (h : l = m :: rest) (hm : m ≠ .idle 0) :
    skipIdle l = m :: rest := by
  subst h
  cases m with
  | idle n => cases n <;> simp_all [skipIdle]
  | _ => rfl

/-- What a cycle whose move reads index `i` binds. -/
theorem State.bindsAfter_read {s : State} {m : HostMove} {rest : List HostMove} {i : Fin 8}
    (hm : skipIdle s.host = m :: rest) (ha : m.access s.cfg = .ok (.read i)) :
    s.bindsAfter = m.boundBy s.cfg (s.regRead i) ++ s.binds := by
  simp [State.bindsAfter, State.rdataPort, State.access, hm, ha]

/-- A cycle that reads nothing binds nothing. -/
theorem State.bindsAfter_noRead {s : State} (ha : ∀ i, s.access ≠ .ok (.read i)) : s.bindsAfter = s.binds := by
  have h : s.rdataPort = none := by
    unfold State.rdataPort
    split
    · exact absurd ‹_› (ha _)
    · rfl
  simp [State.bindsAfter, h]

theorem State.access_ok {s : State} (h : s.hostOk = true) : ∃ a, s.access = .ok a := by
  rw [State.hostOk_iff] at h
  unfold State.access
  split
  · exact ⟨_, rfl⟩
  · rename_i m rest heq
    exact h m (mem_skipIdle (heq ▸ List.mem_cons_self))

end Sys2Proof.Machine
end

