-- ==== Sys2Proof/Laws/PerInstr.lean ====
section
/-! SUPPORT. Statements about every command as written, one lemma per constructor. The family `TableRow`: the encoded word
of a command lies in the command's row of spec/opcode_table.json, under the row's mask, and, for a command in
canonical form, is the row's canonical word. -/

namespace Sys2Proof.Laws.TableRow

/-- The mask of every row. -/
def mask : Word := 0xFFFF00EF

/-- The row's `match`. -/
def rowMatch : Instr → Word
  | .reset _ _ => 0x00000001
  | .wrbit _ _ => 0x00000002
  | .rdbit _ _ => 0x00000003
  | .wrbyte _ _ => 0x00000004
  | .rdbyte _ _ => 0x00000005
  | .crcclr _ _ => 0x00000006

/-- The row's `canonical`, `b` and `x` taken from DATA. -/
def rowCanonical : Instr → Word
  | .reset _ _ => 0x00000001
  | .wrbit d c => (if c then 0x00000012 else 0x00000002) ||| ((d.setWidth 32 &&& 1) <<< 8)
  | .rdbit _ c => if c then 0x00000013 else 0x00000003
  | .wrbyte d c => (if c then 0x00000014 else 0x00000004) ||| (d.setWidth 32 <<< 8)
  | .rdbyte _ c => if c then 0x00000015 else 0x00000005
  | .crcclr _ _ => 0x00000006

/-- The encoded word lies in the command's row; a well-formed command is the canonical word. -/
def Statement (i : Instr) : Prop :=
  encode i &&& mask = rowMatch i ∧ (i.wellFormed = true → encode i = rowCanonical i)

theorem reset (data : Byte) (crcen : Bool) : Statement (.reset data crcen) := by
  unfold Statement; revert data crcen; decide

theorem wrbit (data : Byte) (crcen : Bool) : Statement (.wrbit data crcen) := by
  unfold Statement; revert data crcen; decide

theorem rdbit (data : Byte) (crcen : Bool) : Statement (.rdbit data crcen) := by
  unfold Statement; revert data crcen; decide

theorem wrbyte (data : Byte) (crcen : Bool) : Statement (.wrbyte data crcen) := by
  unfold Statement; revert data crcen; decide

theorem rdbyte (data : Byte) (crcen : Bool) : Statement (.rdbyte data crcen) := by
  unfold Statement; revert data crcen; decide

theorem crcclr (data : Byte) (crcen : Bool) : Statement (.crcclr data crcen) := by
  unfold Statement; revert data crcen; decide

end Sys2Proof.Laws.TableRow
end

