-- ==== Sys2Proof/Laws/Step.lean ====
section
/-! SUPPORT. What one edge and one step can do, said once, and runs of several edges. -/

namespace Sys2Proof.Machine

/-! ### One edge -/

theorem edge_reset (acc : Access) (slv : Bool) (s : State) : edge true acc slv s = .next s.toReset := rfl

/-- The edge of an idle block is the access and the synchroniser's shift (R90). -/
theorem edge_idle {acc : Access} {slv : Bool} {s : State} (h : s.busy = false) :
    edge false acc slv s = hostAccess acc (s.shiftSync (s.line false slv)) := by
  obtain ⟨t, ht, -⟩ := hostAccess_next acc (s.shiftSync (s.line false slv))
  simp [edge, h, ht]

/-- The edge of a busy block: the engine advances, and the access touches none of it (R90, R97). -/
theorem edge_busy {acc : Access} {slv : Bool} {s : State} (h : s.busy = true) :
    ∃ t, edge false acc slv s = .next t ∧
      t.toEngine = s.toEngine.advance s.cfg (s.seen (s.line false slv)) ∧
      t.toSurroundings = s.toSurroundings ∧ t.cfg = s.cfg ∧
      t.sync = (s.shiftSync (s.line false slv)).sync := by
  obtain ⟨t, ht, h1, h2, h3, -, -, h6⟩ := hostAccess_next acc (s.shiftSync (s.line false slv))
  refine ⟨t.advance (s.seen (s.line false slv)), by simp [edge, h, ht], ?_, ?_, ?_, ?_⟩
  · simp [h6 (by simpa using h), h2]
  · simpa using h1
  · simpa using h2
  · simpa using h3

/-- An edge never stops the machine, and keeps the surroundings and the parameters. -/
theorem edge_next (rst : Bool) (acc : Access) (slv : Bool) (s : State) :
    ∃ t, edge rst acc slv s = .next t ∧ t.toSurroundings = s.toSurroundings ∧ t.cfg = s.cfg := by
  cases rst with
  | true => exact ⟨_, edge_reset acc slv s, rfl, rfl⟩
  | false =>
    cases h : s.busy
    · obtain ⟨t, ht, h1, h2, -⟩ := hostAccess_next acc (s.shiftSync (s.line false slv))
      exact ⟨t, (edge_idle h).trans ht, by simpa using h1, by simpa using h2⟩
    · obtain ⟨t, ht, -, h1, h2, -⟩ := edge_busy (acc := acc) (slv := slv) h
      exact ⟨t, ht, h1, h2⟩

/-! ### One step -/

theorem step_of_access {s : State} {acc : Access} (hc : configLegal s.cfg = true) (ha : s.access = .ok acc) :
    step s = edge s.rstNow acc s.slvNow s.passCycle := by simp [step, clockEdge, hc, ha]

/-- Everything a step can do: it refuses illegal parameters, it refuses a platform's cycle by name, or it is the
edge of the access the host makes. -/
theorem step_cases (s : State) :
    (configLegal s.cfg = false ∧ step s = .refused .illegalConfig) ∨
    (∃ r, configLegal s.cfg = true ∧ s.access = .error r ∧ step s = .refused r) ∨
    (∃ acc, configLegal s.cfg = true ∧ s.access = .ok acc ∧ step s = edge s.rstNow acc s.slvNow s.passCycle) := by
  cases hc : configLegal s.cfg
  · exact .inl ⟨rfl, by simp [step, clockEdge, hc]⟩
  · cases ha : s.access with
    | error r => exact .inr (.inl ⟨r, rfl, rfl, by simp [step, clockEdge, hc, ha]⟩)
    | ok acc => exact .inr (.inr ⟨acc, rfl, rfl, step_of_access hc ha⟩)

/-- A step that answers a next state came from legal parameters and an access. -/
theorem step_next_cases {s t : State} (h : step s = .next t) :
    ∃ acc, configLegal s.cfg = true ∧ s.access = .ok acc ∧ edge s.rstNow acc s.slvNow s.passCycle = .next t := by
  rcases step_cases s with ⟨-, h'⟩ | ⟨r, -, -, h'⟩ | ⟨acc, hc, ha, h'⟩
  · rw [h'] at h; cases h
  · rw [h'] at h; cases h
  · exact ⟨acc, hc, ha, h' ▸ h⟩

/-- A host whose moves all have an access, and legal parameters, never stop the machine; both stay so. -/
theorem step_goes_on {s : State} (hc : configLegal s.cfg = true) (hh : s.hostOk = true) :
    ∃ t, step s = .next t ∧ t.cfg = s.cfg ∧ t.hostOk = true ∧ t.toSurroundings = s.passCycle.toSurroundings := by
  obtain ⟨acc, ha⟩ := State.access_ok hh
  obtain ⟨t, ht, h1, h2⟩ := edge_next s.rstNow acc s.slvNow s.passCycle
  refine ⟨t, (step_of_access hc ha).trans ht, by simpa using h2, ?_, h1⟩
  have : t.hostOk = s.passCycle.hostOk := by
    unfold State.hostOk
    rw [show t.host = s.passCycle.host from congrArg Surroundings.host h1, h2]
  rw [this]
  exact State.hostOk_passCycle hh

/-- A move that is one read takes one cycle and binds what `HostMove.boundBy` says. -/
theorem step_of_read {s : State} {m : HostMove} {rest : List HostMove} {i : Fin 8} (hc : configLegal s.cfg = true)
    (hh : s.host = m :: rest) (hidle : ∀ n, m ≠ .idle n) (hpoll : m ≠ .poll) (ha : m.access s.cfg = .ok (.read i)) :
    ∃ t, step s = .next t ∧ t.host = rest ∧ t.binds = m.boundBy s.cfg (s.regRead i) ++ s.binds := by
  have hk := skipIdle_head hh (hidle 0)
  have hl : s.movesLeft = rest := by
    unfold State.movesLeft
    rw [hk]
    cases m <;> simp_all
  rw [step_of_access (acc := .read i) hc (by simp [State.access, hk, ha])]
  obtain ⟨t, ht, h1, -⟩ := edge_next s.rstNow (.read i) s.slvNow s.passCycle
  exact ⟨t, ht, by simp [h1, hl], by simp [h1, State.bindsAfter_read hk ha]⟩

/-! ### The inputs of the coming edges -/

@[simp] theorem State.rstNow_eq (s : State) : s.rstNow = s.rstAt 0 := by
  unfold State.rstNow State.rstAt
  cases s.rstIn <;> rfl

@[simp] theorem State.slvNow_eq (s : State) : s.slvNow = s.slvAt 0 := by
  unfold State.slvNow State.slvAt
  cases s.slvIn <;> rfl

@[simp] theorem State.rstAt_passCycle (s : State) (n : Nat) : s.passCycle.rstAt n = s.rstAt (n + 1) := by
  unfold State.rstAt
  cases h : s.rstIn <;> simp [h]

@[simp] theorem State.slvAt_passCycle (s : State) (n : Nat) : s.passCycle.slvAt n = s.slvAt (n + 1) := by
  unfold State.slvAt
  cases h : s.slvIn <;> simp [h, Nat.add_comm, Nat.add_left_comm]

/-- The inputs of a state depend on its surroundings only. -/
theorem State.inputs_congr {s t : State} (h : t.toSurroundings = s.toSurroundings) :
    t.rstAt = s.rstAt ∧ t.slvAt = s.slvAt := by
  constructor <;> (funext n; simp [State.rstAt, State.slvAt, h])

/-- A step of a busy block without reset, in the terms a run needs: the engine advances on the level it sees, the
synchroniser shifts, and everything a later step asks of the surroundings is one edge further. -/
theorem step_busy {s : State} (hc : configLegal s.cfg = true) (hh : s.hostOk = true) (hb : s.busy = true)
    (hr : s.rstAt 0 = false) :
    ∃ t, step s = .next t ∧ t.toEngine = s.toEngine.advance s.cfg (s.seen (s.line false (s.slvAt 0))) ∧
      t.sync = (s.shiftSync (s.line false (s.slvAt 0))).sync ∧ t.cfg = s.cfg ∧ t.hostOk = true ∧
      (∀ n, t.rstAt n = s.rstAt (n + 1)) ∧ (∀ n, t.slvAt n = s.slvAt (n + 1)) := by
  obtain ⟨acc, ha⟩ := State.access_ok hh
  obtain ⟨t, ht, htc, hth, hts⟩ := step_goes_on hc hh
  have hstep := step_of_access hc ha
  rw [State.rstNow_eq, hr, State.slvNow_eq] at hstep
  obtain ⟨u, hu, h1, -, -, h4⟩ := edge_busy (acc := acc) (slv := s.slvAt 0) (s := s.passCycle) (by simpa using hb)
  obtain rfl : t = u := by
    have := ht.symm.trans (hstep.trans hu)
    injection this
  obtain ⟨hrst, hslv⟩ := State.inputs_congr hts
  refine ⟨t, ht, h1, h4, htc, hth, fun n => ?_, fun n => ?_⟩
  · rw [hrst, State.rstAt_passCycle]
  · rw [hslv, State.slvAt_passCycle]

/-- The step that accepts the command presented to an idle block: it is `exec` of the command. -/
theorem State.Starts.step_eq {i : Instr} {n : Nat} {s : State} (h : s.Starts i (n + 1)) :
    step s = exec i (s.passCycle.shiftSync (s.line false (s.slvAt 0))) := by
  obtain ⟨v, ha, hd⟩ := h.presents
  have hr : s.rstAt 0 = false := h.noReset 0 (Nat.succ_pos n)
  rw [step_of_access h.inv.1 ha, State.rstNow_eq, State.slvNow_eq, hr,
    edge_idle (by simpa using h.idle)]
  exact command_idle_ok (by simpa using h.idle) hd

/-! ### Runs -/

theorem State.after_zero {s t : State} : s.After 0 t ↔ t = s := by
  constructor
  · intro h; injection h with h; exact h.symm
  · rintro rfl; rfl

theorem State.after_succ {n : Nat} {s t : State} : s.After (n + 1) t ↔ ∃ u, step s = .next u ∧ u.After n t := by
  unfold State.After
  simp only [Host.Core.run]
  cases h : step s with
  | next u =>
    simp only [show Sys2Proof.core.step s = Host.Outcome.next u from h]
    exact ⟨fun h => ⟨u, rfl, h⟩, fun ⟨u', hu, h⟩ => by injection hu with hu; subst hu; exact h⟩
  | fault r => exact r.rec
  | refused r =>
    simp [show Sys2Proof.core.step s = Host.Outcome.refused r from h]

theorem State.after_add {m n : Nat} {s t : State} : s.After (m + n) t ↔ ∃ u, s.After m u ∧ u.After n t := by
  induction m generalizing s with
  | zero => simp [State.after_zero]
  | succ m ih =>
    rw [Nat.succ_add, State.after_succ]
    simp only [ih, State.after_succ]
    constructor
    · rintro ⟨u, hu, w, hw, h⟩; exact ⟨w, ⟨u, hu, hw⟩, h⟩
    · rintro ⟨w, ⟨u, hu, hw⟩, h⟩; exact ⟨u, hu, w, hw, h⟩

/-- Two runs of the same length from one state end in one state. -/
theorem State.after_unique {n : Nat} {s t t' : State} (h : s.After n t) (h' : s.After n t') : t = t' := by
  unfold State.After at h h'
  rw [h] at h'
  injection h'

/-- What every step keeps, every run keeps. -/
theorem State.after_keeps {P : State → Prop} (hstep : ∀ s t, P s → step s = .next t → P t) {n : Nat} {s t : State}
    (hs : P s) (h : s.After n t) : P t := by
  induction n generalizing s with
  | zero => rw [State.after_zero.1 h]; exact hs
  | succ n ih =>
    obtain ⟨u, hu, h⟩ := State.after_succ.1 h
    exact ih (hstep s u hs hu) h

end Sys2Proof.Machine
end

