-- ==== Sys2Proof/Laws/Word.lean ====
section
/-! SUPPORT. Each field of a command word on the word's value and on an encoded command, each bit of STATUS, and each
register's value, said once. -/

namespace Sys2Proof

theorem opField_toNat (v : Word) : (opField v).toNat = v.toNat % 16 := by
  simp [opField, BitVec.extractLsb'_toNat]

theorem rsvdLo_toNat (v : Word) : (rsvdLo v).toNat = v.toNat / 2 ^ 5 % 8 := by
  simp [rsvdLo, BitVec.extractLsb'_toNat, Nat.shiftRight_eq_div_pow]

theorem dataField_toNat (v : Word) : (dataField v).toNat = v.toNat / 2 ^ 8 % 256 := by
  simp [dataField, BitVec.extractLsb'_toNat, Nat.shiftRight_eq_div_pow]

theorem rsvdHi_toNat (v : Word) : (rsvdHi v).toNat = v.toNat / 2 ^ 16 := by
  simp [rsvdHi, BitVec.extractLsb'_toNat, Nat.shiftRight_eq_div_pow]; omega

theorem crcenField_toNat (v : Word) : (crcenField v).toNat = v.toNat / 2 ^ 4 % 2 := by
  have h : crcenField v = decide (v.toNat / 2 ^ 4 % 2 = 1) := by
    simp [crcenField, BitVec.getLsbD, Nat.testBit_eq_decide_div_mod_eq]
  rw [h]
  rcases Nat.mod_two_eq_zero_or_one (v.toNat / 2 ^ 4) with h | h <;> rw [h] <;> rfl

/-- An encoded command on its value: OP, CRCEN and DATA at their places (R70). -/
theorem encode_toNat (i : Instr) : (encode i).toNat = i.op.toNat + 16 * i.crcen.toNat + 256 * i.data.toNat := by
  rcases i with ⟨d, c⟩ | ⟨d, c⟩ | ⟨d, c⟩ | ⟨d, c⟩ | ⟨d, c⟩ | ⟨d, c⟩ <;> revert d c <;> decide

namespace Machine

/-- `v[hi:lo]` as a number (R81). -/
theorem bitsOf_toNat (v : Word) (hi lo : Nat) : (bitsOf v hi lo).toNat = v.toNat / 2 ^ lo % 2 ^ (hi - lo + 1) := by
  simp only [bitsOf, BitVec.toNat_setWidth, BitVec.extractLsb'_toNat, Nat.shiftRight_eq_div_pow]
  exact Nat.mod_eq_of_lt (((Nat.mod_le _ _).trans (Nat.div_le_self _ _)).trans_lt v.isLt)

@[simp] theorem State.status_busy (s : State) : s.status[0] = s.busy := by
  unfold State.status
  cases s.ovr <;> cases s.ill <;> cases s.crcOk <;> cases s.ppd <;> cases s.busy <;> rfl

@[simp] theorem State.status_ppd (s : State) : s.status[1] = s.ppd := by
  unfold State.status
  cases s.ovr <;> cases s.ill <;> cases s.crcOk <;> cases s.ppd <;> cases s.busy <;> rfl

@[simp] theorem State.status_crcOk (s : State) : s.status[2] = s.crcOk := by
  unfold State.status
  cases s.ovr <;> cases s.ill <;> cases s.crcOk <;> cases s.ppd <;> cases s.busy <;> rfl

@[simp] theorem State.status_ill (s : State) : s.status[3] = s.ill := by
  unfold State.status
  cases s.ovr <;> cases s.ill <;> cases s.crcOk <;> cases s.ppd <;> cases s.busy <;> rfl

@[simp] theorem State.status_ovr (s : State) : s.status[4] = s.ovr := by
  unfold State.status
  cases s.ovr <;> cases s.ill <;> cases s.crcOk <;> cases s.ppd <;> cases s.busy <;> rfl

@[simp] theorem State.regRead_status (s : State) : s.regRead 1 = s.status := rfl

/-- STATUS as a number (R24). -/
theorem State.status_toNat (s : State) :
    s.status.toNat = s.busy.toNat + 2 * s.ppd.toNat + 4 * s.crcOk.toNat + 8 * s.ill.toNat + 16 * s.ovr.toNat := by
  unfold State.status
  cases s.ovr <;> cases s.ill <;> cases s.crcOk <;> cases s.ppd <;> cases s.busy <;> rfl

end Machine

end Sys2Proof
end

