-- ==== Sys2Proof/Tests/Slice0.lean ====
section
/-! SUPPORT. The model's own tests: the checks of WellFormed and of the parameters refuse an ill-formed term each, words
written out from spec/30_encoding.md decode as they should, single edges give what the vectors of
spec/95_test_vectors.md say, and every statement with hypotheses has a state and operands that meet them. -/

namespace Sys2Proof.Tests

open Sys2Proof.Machine

/-! ## Small states -/

/-- The artificial timing set `T_X` of spec/95_test_vectors.md. -/
def tX : TimingSet :=
  { w1L := 1, w1H := 2, w0L := 2, w0H := 1, rL := 1, rS := 2, rT := 3, rstL := 4, pds := 3, rstS := 2 }

/-- `K = 1`, the given `SYNC`, overdrive supported with `T_X`. -/
def cfgX (syncStages : Nat) : Config :=
  { k := 1, syncStages := syncStages, odSupported := true, tOd := tX, base := 0x1000, uw := 9 }

/-- An idle block with CTRL.SPEED = 1, no slave pulling low for a hundred edges, and the given host moves. -/
def idleWith (moves : List HostMove) : State :=
  { State.resetOf (cfgX 0)
      { host := moves, binds := [], rstIn := [], slvIn := List.replicate 100 false, cycle := 0 } with speed := true }

/-- The same block at the start of a phase of a command. -/
def running (op : Op) (c : Bool) (d : Byte) (P : Phase) (moves : List HostMove) : State :=
  (idleWith moves).accept op c d P (firstBit d)

/-- The same block at the last edge of a phase: `pre = K - 1`, `us = 1`. -/
def lastEdge (op : Op) (c : Bool) (d : Byte) (P : Phase) (moves : List HostMove) : State :=
  { running op c d P moves with us := 1 }

/-- A field of a next state. -/
def nextIs {α : Type} [DecidableEq α] (f : State → α) (o : Host.Outcome State Fault Refusal) (a : α) : Bool :=
  match o with
  | .next t => decide (f t = a)
  | _ => false

/-! ## WellFormed and the parameters: an ill-formed term for each check -/

theorem test_illformed_reset_data : (Instr.reset 1 false).wellFormed = false := by decide
theorem test_illformed_reset_crcen : (Instr.reset 0 true).wellFormed = false := by decide
theorem test_illformed_wrbit_data : (Instr.wrbit 0xFE true).wellFormed = false := by decide
theorem test_illformed_rdbit_data : (Instr.rdbit 0x80 true).wellFormed = false := by decide
theorem test_illformed_rdbyte_data : (Instr.rdbyte 1 true).wellFormed = false := by decide
theorem test_illformed_crcclr_data : (Instr.crcclr 0xFF false).wellFormed = false := by decide
theorem test_illformed_crcclr_crcen : (Instr.crcclr 0 true).wellFormed = false := by decide
theorem test_wellformed_wrbyte : (Instr.wrbyte 0xFF true).wellFormed = true := by decide

theorem test_config_k : configLegal { cfgX 0 with k := 0 } = false := by decide
theorem test_config_duration : configLegal { cfgX 0 with tOd := { tX with rT := 0 } } = false := by decide
theorem test_config_sync_rs : configLegal (cfgX 2) = false := by decide
theorem test_config_sync_pds : configLegal { cfgX 3 with tOd := { tX with rS := 9 } } = false := by decide
theorem test_config_uw : configLegal { cfgX 0 with uw := 8 } = false := by decide
theorem test_config_unused_set : configLegal { cfgX 2 with odSupported := false } = true := by decide
theorem test_config_chip : configLegal Config.chip = true := by decide

/-! ## Decoding: words written out bit by bit from R70 and R75, reserved words from V-ERR-1 -/

theorem test_decode_reset : decode 0b0000000000000000_00000000_000_0_0001 = .ok (.reset 0 false) := by decide
theorem test_decode_reset_ignored : decode 0b0000000000000000_11111111_000_1_0001 = .ok (.reset 0xFF true) := by decide
theorem test_decode_wrbit : decode 0b0000000000000000_00000001_000_1_0010 = .ok (.wrbit 1 true) := by decide
theorem test_decode_wrbit_only_bit_8 :
    (decode 0b0000000000000000_11111110_000_0_0010).toOption.map Instr.canon = some (.wrbit 0 false) := by decide
theorem test_decode_rdbit : decode 0b0000000000000000_00000000_000_1_0011 = .ok (.rdbit 0 true) := by decide
theorem test_decode_wrbyte : decode 0b0000000000000000_11001100_000_0_0100 = .ok (.wrbyte 0xCC false) := by decide
theorem test_decode_rdbyte : decode 0b0000000000000000_00000000_000_1_0101 = .ok (.rdbyte 0 true) := by decide
theorem test_decode_crcclr : decode 0b0000000000000000_00000000_000_0_0110 = .ok (.crcclr 0 false) := by decide
theorem test_decode_reserved :
    [0x0, 0x7, 0xF, 0x10, 0x21, 0x41, 0x81, 0x10001, 0x80000001].all (fun w => decodeTableWord 32 w = none) = true := by
  decide
theorem test_encode_wrbyte : encode (.wrbyte 0xCC true) = 0x0000CC14 := by decide
theorem test_host_program :
    hostProgram ["C WRBYTE.C 0xFF ; a byte", "W STATUS, 24", "R RDATA -> x", "POLL", "IDLE 5"] =
      some [.write 0 0xFF14, .write 1 24, .read 2 "x", .poll, .idle 5] := by decide
theorem test_host_program_pseudo :
    hostProgram ["PRESENCE -> p", "RDB.C -> x", "CRCCHK -> ok", "R STATUS"] =
      some [.write 0 0x1, .poll, .readPart 1 "t" "p" 1 1, .write 0 0x15, .poll, .readPart 2 "t" "x" 7 0,
        .readPart 1 "t" "ok" 2 2, .look 1] := by decide
theorem test_host_program_range : hostProgram ["C WRBIT 2"] = none := by decide

/-! ## Single edges (V-OD-1 to V-OD-5, V-RB-3, V-RB-4, V-WB-3, V-ERR, V-CRC) -/

theorem test_reset_starts :
    nextIs (fun t => (t.phase, t.us, t.drive, t.crcen)) (step (idleWith [.write 0 0x11])) (.rstL, 4, true, false) = true := by
  decide
theorem test_reset_publishes :
    nextIs (fun t => (t.ppd, t.busy)) (step { lastEdge .reset false 0 .rstS [] with smp := false }) (true, false) = true := by
  decide
theorem test_wrbit_starts :
    nextIs (fun t => (t.phase, t.us, t.data)) (step (idleWith [.write 0 0xFF02])) (.wL, 1, 0xFF) = true := by decide
theorem test_wrbit_feeds_crc :
    nextIs (fun t => (t.crc, t.rdata, t.busy)) (step (lastEdge .wrbit true 1 .wH [])) (0x8C, 0, false) = true := by decide
theorem test_rdbit_samples_low :
    nextIs (fun t => (t.phase, t.smp)) (step { lastEdge .rdbit false 0 .rS [] with slvIn := [true] }) (.rT, false) = true := by
  decide
theorem test_rdbit_clears_upper_bits :
    nextIs (fun t => t.rdata) (step { lastEdge .rdbit false 0 .rT [] with rdata := 0xA5, smp := true }) 0x01 = true := by
  decide
theorem test_wrbyte_chains :
    nextIs (fun t => (t.phase, t.bitIdx, t.us, t.drive)) (step (lastEdge .wrbyte false 0xFD .wH [])) (.wL, 1, 2, true) = true := by
  decide
theorem test_wrbyte_ends_after_slot_7 :
    nextIs (fun t => (t.phase, t.rdata)) (step { lastEdge .wrbyte false 0 .wH [] with bitIdx := 7 }) (.idle, 0) = true := by
  decide
theorem test_rdbyte_shifts_from_the_top :
    nextIs (fun t => (t.sh, t.phase, t.rdata)) (step { lastEdge .rdbyte false 0 .rT [] with sh := 0x03, smp := true })
      (0x81, .rL, 0) = true := by decide
theorem test_rdbyte_publishes :
    nextIs (fun t => (t.rdata, t.busy)) (step { lastEdge .rdbyte false 0 .rT [] with sh := 0x4A, smp := true, bitIdx := 7 })
      (0xA5, false) = true := by decide
theorem test_crcclr_clears :
    nextIs (fun t => (t.crc, t.busy, t.status)) (step { idleWith [.write 0 0xFF06] with crc := 0xA2 }) (0, false, 4) = true := by
  decide
theorem test_crcclr_lost_while_busy :
    nextIs (fun t => (t.crc, t.ovr)) (step { running .rdbit false 0 .rL [.write 0 0x6] with crc := 0xA2 }) (0xA2, true) = true := by
  decide
theorem test_crc_bytes :
    [0x00, 0x01, 0x80, 0xFF, 0xCC, 0x33, 0x55, 0xF0, 0x02, 0xA5].map (crcByte 0) =
      [0x00, 0x5E, 0x8C, 0x35, 0x69, 0x5C, 0xE4, 0x74, 0xBC, 0x90] := by decide
theorem test_crc_rom :
    [((0x00 : Byte), (0x02 : Byte)), (0xBC, 0x1C), (0xAF, 0xB8), (0x1E, 0x01), (0xDC, 0x00), (0xF4, 0x00), (0x15, 0x00),
      (0xA2, 0xA2)].map (fun p => crcByte p.1 p.2) = [0xBC, 0xAF, 0x1E, 0xDC, 0xF4, 0x15, 0xA2, 0x00] := by decide
theorem test_wire_bits_0xCC :
    wireBits 0xCC = [false, false, true, true, false, false, true, true] := by decide
theorem test_status_write_clears :
    nextIs State.status (step { idleWith [.write 1 0x8] with ill := true, ovr := true }) 0x14 = true := by decide
theorem test_illegal_word_sets_ill :
    nextIs (fun t => (t.status, t.crc)) (step { idleWith [.write 0 0x21] with crc := 0x35 }) (0x8, 0x35) = true := by decide
theorem test_reset_wins_over_a_write :
    nextIs (fun t => (t.status, t.phase)) (step { running .reset false 0 .rstL [.write 0 0x3] with rstIn := [true] })
      (0x4, .idle) = true := by decide
theorem test_ctrl_without_overdrive :
    nextIs State.speed (hostWrite 4 0xFFFFFFFF { idleWith [] with cfg := { cfgX 0 with odSupported := false } }) false = true := by
  decide
theorem test_crcchk_binds :
    nextIs (fun t => t.binds) (step { idleWith [.readPart 1 "t" "ok" 2 2] with ppd := true }) [("ok", 1), ("t", 0x6)] = true := by
  decide
theorem test_presence_binds :
    nextIs (fun t => t.binds) (step (idleWith [.readPart 1 "t" "p" 1 1, .look 1])) [("p", 0), ("t", 0x4)] = true := by decide
theorem test_platform_read : (idleWith [.bus [⟨0x1004, 4, .read "st"⟩]]).rdataPort = some 0x4 := by decide
theorem test_first_step_after_reset :
    nextIs (fun t => t.phase) (step (State.reset.withFetchWord 32 0x5)) .rL = true := by decide

/-! ## A state and operands that meet each statement's hypotheses -/

theorem witness_IllegalWordsSetIllOrOvrOnly :
    legal 0x10 = false ∧ (idleWith []).busy = false ∧ (running .reset false 0 .rstL []).busy = true := by decide

theorem witness_AssemblerWritesTheCanonicalWords :
    (AsmLine.wrbyte true 255).enc = some 0x0000FF14 ∧ (AsmLine.wrbit false 2).enc = none ∧ legal 0x00000000 = false ∧
    decode 0x0000FF06 = .ok (.crcclr 0xFF false) ∧ AsmLine.crcclr.enc = some (encode (Instr.crcclr 0xFF false).canon) ∧
    decode 0x0000FE02 = .ok (.wrbit 0xFE false) ∧
    (AsmLine.wrbit false 0).enc = some (encode (Instr.wrbit 0xFE false).canon) ∧ legal 0x0000FE02 = true := by decide

theorem witness_EventsAreReportedInStatus : (0 : Fin 8) ≠ 1 ∧ (7 : Fin 8) ≠ 1 := by decide

theorem witness_IgnoredBitsNeverChangeTheCommand :
    ([((0x1 : Word), (0xFF11 : Word)), (0x102, 0xFF02), (0x13, 0xA513), (0xCC04, 0xCC04), (0x5, 0xFF05), (0x6, 0xFF16)].all
      fun p => match decode p.1, decode p.2 with
        | .ok i, .ok i' =>
          decide ((p.1 ^^^ p.2) &&& (match p.1.toNat % 16 with
            | 1 => 0xFFFF00EF
            | 2 => 0xFFFF01FF
            | 3 => 0xFFFF00FF
            | 4 => 0xFFFFFFFF
            | 5 => 0xFFFF00FF
            | _ => 0xFFFF00EF) = 0) &&
          (nextIs (fun t => t.crc) (exec i (idleWith [])) 0 && nextIs (fun t => t.crc) (exec i' (idleWith [])) 0)
        | _, _ => false) = true := by decide

theorem witness_ResetIsAccepted : (idleWith []).busy = false := by decide
theorem witness_WrbitIsAccepted : (idleWith []).busy = false ∧ (idleWith []).timingSet.w0L = 2 := by decide
theorem witness_RdbitIsAccepted : (idleWith []).busy = false ∧ (idleWith []).timingSet.rL = 1 := by decide
theorem witness_WrbyteIsAccepted : (idleWith []).busy = false ∧ (idleWith []).timingSet.w1L = 1 := by decide
theorem witness_RdbyteIsAccepted : (idleWith []).busy = false ∧ State.reset.busy = false := by decide
theorem witness_CrcclrClearsTheCrc :
    { idleWith [] with crc := 0xA2 }.busy = false ∧ (running .rdbit false 0 .rL []).busy = true := by decide
theorem witness_CommandWhileBusyIsLost : (running .wrbyte true 0xCC .wL []).busy = true := by decide
theorem witness_IllegalCommandSetsIll :
    (idleWith []).busy = false ∧ legal 0x80000001 = false ∧
      ∃ t, edge false (.write 0 0x80000001) true (idleWith []) = .next t := ⟨by decide, by decide, _, rfl⟩

theorem witness_PriorityAtOneEdge :
    (∃ t, edge true (.write 0 3) false (running .reset false 0 .rstL []) = .next t) ∧
    (∃ t, edge false (.write 0 7) false (running .reset false 0 .rstL []) = .next t ∧
      (running .reset false 0 .rstL []).busy = true) ∧
    (∃ t, edge false (.write 0 7) false (idleWith []) = .next t ∧ legal 7 = false ∧ (idleWith []).busy = false) ∧
    (∃ t, edge false (.write 0 6) false (idleWith []) = .next t ∧ legal 6 = true ∧ (idleWith []).busy = false) ∧
    (∃ t u, edge false (.write 0 3) false (lastEdge .reset false 0 .rstS []) = .next t ∧
      edge false (.write 1 0x18) false (lastEdge .reset false 0 .rstS []) = .next u ∧
      (lastEdge .reset false 0 .rstS []).busy = true) :=
  ⟨⟨_, rfl⟩, ⟨_, rfl, rfl⟩, ⟨_, rfl, rfl, rfl⟩, ⟨_, rfl, rfl, rfl⟩, _, _, rfl, rfl, rfl⟩

theorem witness_StepRunsThePresentedCommand :
    (configLegal (cfgX 0) = true ∧ (idleWith [.write 0 0x3]).access = .ok (.write 0 0x3) ∧
      (idleWith [.write 0 0x3]).rstNow = false ∧ decode 0x3 = .ok (.rdbit 0 false) ∧
      (idleWith [.write 0 0x3]).busy = false) ∧
    ((running .reset false 0 .rstL [.write 0 0x3]).access = .ok (.write 0 0x3) ∧
      (running .reset false 0 .rstL [.write 0 0x3]).rstNow = false ∧
      (running .reset false 0 .rstL [.write 0 0x3]).busy = true) :=
  ⟨⟨by decide, rfl, rfl, rfl, rfl⟩, rfl, rfl, rfl⟩

theorem witness_RegisterReads : (idleWith [.read 7 "x"]).access = .ok (.read 7) := rfl
theorem witness_RegisterWrites :
    (idleWith []).busy = false ∧ (running .rdbit false 0 .rL []).busy = true ∧ (3 : Fin 8) ≠ 0 ∧ (3 : Fin 8) ≠ 1 ∧ (3 : Fin 8) ≠ 4 ∧ (7 : Fin 8) ≠ 4 := by decide

theorem witness_SpeedSelectsTheModeOfLaterCommands :
    (∃ t, edge false (.write 4 0xFFFFFFFF) false (idleWith []) = .next t) ∧
    (∃ t, (idleWith []).busy = false ∧ exec (.wrbyte 0xCC false) (idleWith []) = .next t ∧ t.busy = true) ∧
    (∃ t, (State.reset.cfg.odSupported = false ∧ State.reset.speed = false) ∧ step State.reset = .next t) :=
  ⟨⟨_, rfl⟩, ⟨_, rfl, rfl, rfl⟩, _, ⟨rfl, rfl⟩, rfl⟩

theorem witness_NoAccessReachesARunningCommand : (running .rdbyte true 0 .rL []).busy = true := by decide

theorem witness_ErrorFlagsAreSticky :
    (∃ t, step (idleWith [.write 0 0x7]) = .next t) ∧
    (∃ t, step (running .rdbit false 0 .rL [.write 0 0x7]) = .next t) ∧
    (∃ t, step { idleWith [.write 1 0x18] with ill := true, ovr := true } = .next t) :=
  ⟨⟨_, rfl⟩, ⟨_, rfl⟩, ⟨_, rfl⟩⟩

theorem witness_PpdIsWrittenAtTheFinishOfResetOnly :
    ∃ t, step (lastEdge .reset false 0 .rstS []) = .next t ∧ (lastEdge .reset false 0 .rstS []).phaseEnds = true :=
  ⟨_, rfl, rfl⟩

theorem witness_RdataIsWrittenAtTheFinishOfReadsOnly :
    (∃ t, (lastEdge .rdbit false 0 .rT []).Inv ∧ step (lastEdge .rdbit false 0 .rT []) = .next t) ∧
    (∃ t, ({ lastEdge .rdbyte false 0 .rT [] with bitIdx := 7 } : State).Inv ∧
      step { lastEdge .rdbyte false 0 .rT [] with bitIdx := 7 } = .next t) :=
  ⟨⟨_, by decide, rfl⟩, ⟨_, by decide, rfl⟩⟩

theorem witness_CrcIsWrittenBySlotEndsAndCrcclrOnly :
    (∃ t, step (lastEdge .wrbit true 1 .wH []) = .next t) ∧ (∃ t, step (lastEdge .rdbyte true 1 .rT []) = .next t) ∧
    (∃ t, step (idleWith [.write 0 0x16]) = .next t) := ⟨⟨_, rfl⟩, ⟨_, rfl⟩, ⟨_, rfl⟩⟩

theorem witness_PlatformAccessesAreMappedOrRefused :
    configLegal (cfgX 0) = true ∧ (cfgX 0).base % 4 = 0 ∧ BusAccess.hits (cfgX 0) ⟨0x1000, 4, .write 1⟩ = true ∧
    BusAccess.hits (cfgX 0) ⟨0x101F, 1, .read "x"⟩ = true ∧ BusAccess.hits (cfgX 0) ⟨0x1001, 4, .read "x"⟩ = true ∧
    BusAccess.hits (cfgX 0) ⟨0x1020, 4, .read "x"⟩ = false := by decide

theorem witness_PlatformCyclesAreNoneOneOrRefused :
    configLegal (cfgX 0) = true ∧ configLegal { cfgX 0 with base := 0x1002 } = true ∧
    [(⟨0xFFC, 4, .write 1⟩ : BusAccess), ⟨0x1020, 4, .read "x"⟩].filter (BusAccess.hits (cfgX 0)) = [] ∧
    2 ≤ ([(⟨0x1000, 4, .write 1⟩ : BusAccess), ⟨0x2000, 4, .write 1⟩, ⟨0x1004, 4, .read "x"⟩,
      ⟨0x101C, 4, .read "y"⟩].filter (BusAccess.hits (cfgX 0))).length ∧
    [(⟨0xFFE, 8, .write 1⟩ : BusAccess)].filter (BusAccess.hits (cfgX 0)) = [⟨0xFFE, 8, .write 1⟩] ∧
    [(⟨0xFFF, 4, .write 1⟩ : BusAccess)].filter (BusAccess.hits (cfgX 0)) = [⟨0xFFF, 4, .write 1⟩] ∧
    [(⟨0x1004, 4, .write 1⟩ : BusAccess)].filter (BusAccess.hits { cfgX 0 with base := 0x1002 }) =
      [⟨0x1004, 4, .write 1⟩] ∧ ((0x1004 : Int) - 0x1002) % 4 ≠ 0 := by decide

theorem witness_ResetEdgeGivesTheResetState :
    ∃ t, edge true (.write 0 3) false (running .reset false 0 .rstL []) = .next t := ⟨_, rfl⟩

theorem witness_ResetAbandonsARunningCommand :
    ∃ t, { running .wrbit true 0 .wL [] with rstIn := [true] }.rstNow = true ∧
      step { running .wrbit true 0 .wL [] with rstIn := [true] } = .next t := ⟨_, rfl, rfl⟩

/-- The idle block with one synchroniser stage. -/
def oneStage : State := { State.resetOf (cfgX 1) Surroundings.quiet with slvIn := [true, false, true] }

theorem witness_SynchroniserDelaysTheLine :
    configLegal oneStage.cfg = true ∧ oneStage.sync = List.replicate oneStage.cfg.syncStages true ∧
    oneStage.NoReset 2 ∧ 0 < oneStage.cfg.syncStages ∧ oneStage.After 0 oneStage ∧
    (∃ t, oneStage.After 1 t ∧ oneStage.cfg.syncStages ≤ 1 ∧ oneStage.After (1 - oneStage.cfg.syncStages) oneStage) :=
  ⟨by decide, rfl, fun _ _ => rfl, by decide, rfl, _, rfl, by decide, rfl⟩

theorem witness_EveryStepKeepsTheInvariant :
    ∃ t, (running .rdbyte true 0 .rL [.write 0 1]).Inv ∧ step (running .rdbyte true 0 .rL [.write 0 1]) = .next t :=
  ⟨_, by decide, rfl⟩

theorem witness_PhaseLastsExactly :
    (running .reset false 0 .rstL [.write 0 1]).Inv ∧ (running .reset false 0 .rstL [.write 0 1]).busy = true ∧
    (running .reset false 0 .rstL [.write 0 1]).hostOk = true ∧ (running .reset false 0 .rstL [.write 0 1]).pre = 0 ∧
    (running .reset false 0 .rstL [.write 0 1]).us = 4 ∧ (running .reset false 0 .rstL [.write 0 1]).NoReset (4 * 1) :=
  ⟨by decide, rfl, rfl, rfl, rfl, fun _ _ => rfl⟩

theorem witness_LineMattersAtSamplingEdgesOnly :
    (running .reset false 0 .rstW []).samples = false ∧ (lastEdge .reset false 0 .rstW []).samples = true ∧
    (running .wrbit false 0 .wL []).phase = .wL ∧ (running .wrbit false 0 .wH []).phase = .wH := by decide

theorem idleWith_inv (moves : List HostMove) : (idleWith moves).Inv :=
  show (idleWith []).Inv by decide

/-- Any command, presented to the idle block of the tests, starts. -/
theorem starts_idleWith {v : Word} {i : Instr} (h : decode v = .ok i) (n : Nat) (moves : List HostMove)
    (hm : (idleWith moves).hostOk = true) : (idleWith (.write 0 v :: moves)).Starts i n where
  inv := idleWith_inv _
  idle := rfl
  host := by
    rw [State.hostOk_iff] at *
    intro m hmem
    rcases List.mem_cons.1 hmem with rfl | hmem
    · exact ⟨_, rfl⟩
    · exact hm m hmem
  presents := ⟨v, rfl, h⟩
  noReset := fun _ _ => rfl

theorem witness_ResetTimeline :
    (9 : Nat) = ((idleWith [.write 0 1, .poll]).timingSet.rstL + (idleWith [.write 0 1, .poll]).timingSet.pds +
      (idleWith [.write 0 1, .poll]).timingSet.rstS) * (idleWith [.write 0 1, .poll]).cfg.k ∧
    (idleWith [.write 0 1, .poll]).Starts (.reset 0 false) (9 + 1) :=
  ⟨rfl, starts_idleWith rfl _ _ (by decide)⟩

theorem witness_WrbitTimeline :
    true = (1 : Byte).getLsbD 0 ∧ (1 : Nat) = (idleWith [.write 0 0x112]).timingSet.w1L * 1 ∧
    (3 : Nat) = 1 + (idleWith [.write 0 0x112]).timingSet.w1H * 1 ∧
    (idleWith [.write 0 0x112]).Starts (.wrbit 1 true) (3 + 1) :=
  ⟨rfl, rfl, rfl, starts_idleWith rfl _ _ (by decide)⟩

theorem witness_RdbitTimeline :
    (6 : Nat) = ((idleWith [.write 0 0x13]).timingSet.rL + (idleWith [.write 0 0x13]).timingSet.rS +
      (idleWith [.write 0 0x13]).timingSet.rT) * 1 ∧
    true = (!(idleWith [.write 0 0x13]).slvAt (((idleWith [.write 0 0x13]).timingSet.rL +
      (idleWith [.write 0 0x13]).timingSet.rS) * 1 - 0)) ∧
    (idleWith [.write 0 0x13]).Starts (.rdbit 0 true) (6 + 1) :=
  ⟨rfl, by decide, starts_idleWith rfl _ _ (by decide)⟩

theorem witness_WrbyteTimeline :
    (∀ j, (fun j => ((List.range j).map fun i => if (0xCC : Byte).getLsbD i
        then (idleWith [.write 0 0xCC14]).timingSet.w1L + (idleWith [.write 0 0xCC14]).timingSet.w1H
        else (idleWith [.write 0 0xCC14]).timingSet.w0L + (idleWith [.write 0 0xCC14]).timingSet.w0H).sum) j =
      ((List.range j).map fun i => if (0xCC : Byte).getLsbD i
        then (idleWith [.write 0 0xCC14]).timingSet.w1L + (idleWith [.write 0 0xCC14]).timingSet.w1H
        else (idleWith [.write 0 0xCC14]).timingSet.w0L + (idleWith [.write 0 0xCC14]).timingSet.w0H).sum) ∧
    (idleWith [.write 0 0xCC14]).Starts (.wrbyte 0xCC true) (24 + 1) :=
  ⟨fun _ => rfl, starts_idleWith rfl _ _ (by decide)⟩

theorem witness_RdbyteTimeline :
    (∀ j, j < 8 → (0xFF : Byte).getLsbD j =
      !(idleWith [.write 0 0x15]).slvAt ((j * 6 + (idleWith [.write 0 0x15]).timingSet.rL +
        (idleWith [.write 0 0x15]).timingSet.rS) * 1 - 0)) ∧
    (idleWith [.write 0 0x15]).Starts (.rdbyte 0 true) (8 * 6 * 1 + 1) :=
  ⟨by decide, starts_idleWith rfl _ _ (by decide)⟩

theorem witness_BusyLastsTheTableDuration :
    (0 : Nat) = commandUs (idleWith [.write 0 6]).timingSet (.crcclr 0 false) * 1 ∧
    (idleWith [.write 0 6]).Starts (.crcclr 0 false) (0 + 1) ∧
    (48 : Nat) = commandUs (idleWith [.write 0 5]).timingSet (.rdbyte 0 false) * 1 ∧
    (idleWith [.write 0 5]).Starts (.rdbyte 0 false) (48 + 1) :=
  ⟨rfl, starts_idleWith rfl _ _ (by decide), rfl, starts_idleWith rfl _ _ (by decide)⟩

theorem witness_EveryCommandEnds :
    (running .rdbyte false 0 .rL [.poll]).Inv ∧ (running .rdbyte false 0 .rL [.poll]).hostOk = true := by decide

theorem witness_TheBlockNeverStops :
    configLegal State.reset.cfg = true ∧ State.reset.hostOk = true := ⟨by decide, rfl⟩

/-- The idle block with other parameters. -/
def withCfg (cfg : Config) : State := { idleWith [] with cfg := cfg }

theorem witness_IllegalConfigurationsAreRefused :
    (withCfg { cfgX 0 with k := 0 }).cfg.k < 1 ∧
    (∃ d ∈ durations (withCfg { cfgX 0 with tOd := { tX with rT := 0 } }).cfg.tOd, d < 1) ∧
    ((2 : Int) > (tX.rS * (cfgX 2).k : Int) - 1) ∧ ((3 : Int) > (tX.pds * (cfgX 3).k : Int) - 1) ∧
    (idleWith []).cfg.k ≥ 1 ∧
    (∀ T, (T = tStd ∨ ((idleWith []).cfg.odSupported = true ∧ T = (idleWith []).cfg.tOd)) →
      (∀ d ∈ durations T, 1 ≤ d ∧ d < 2 ^ (idleWith []).cfg.uw) ∧
        ((idleWith []).cfg.syncStages : Int) ≤ (T.rS * (idleWith []).cfg.k : Int) - 1 ∧
        ((idleWith []).cfg.syncStages : Int) ≤ (T.pds * (idleWith []).cfg.k : Int) - 1) := by
  refine ⟨by decide, by decide, by decide, by decide, by decide, ?_⟩
  rintro T (rfl | ⟨-, rfl⟩) <;> decide

theorem witness_BusyIsVisibleAtOnce :
    (∃ t, (idleWith [.write 0 3]).Starts (.rdbit 0 false) 1 ∧ (idleWith [.write 0 3]).After 1 t) ∧
    (∃ t, (idleWith [.write 0 6]).Starts (.crcclr 0 false) 1 ∧ (idleWith [.write 0 6]).After 1 t) :=
  ⟨⟨_, starts_idleWith rfl _ _ (by decide), rfl⟩, ⟨_, starts_idleWith rfl _ _ (by decide), rfl⟩⟩

theorem witness_ModeWrittenBeforeACommandIsUsed :
    (∃ t u, edge false (.write 4 0) false (running .rdbit false 0 .rL []) = .next t ∧
      edge false .none false (running .rdbit false 0 .rL []) = .next u) ∧
    (∃ u t, (idleWith [.write 4 0, .write 0 3]).busy = false ∧ (idleWith [.write 4 0, .write 0 3]).NoReset 2 ∧
      (idleWith [.write 4 0, .write 0 3]).access = .ok (.write 4 0) ∧
      step (idleWith [.write 4 0, .write 0 3]) = .next u ∧ u.access = .ok (.write 0 3) ∧
      decode 3 = .ok (.rdbit 0 false) ∧ (∀ d c, Instr.rdbit 0 false ≠ .crcclr d c) ∧ step u = .next t) :=
  ⟨⟨_, _, rfl, rfl⟩, _, _, rfl, fun _ _ => rfl, rfl, rfl, rfl, rfl, fun _ _ => nofun, rfl⟩

theorem witness_OneReleasedCycleBetweenCommands :
    ∃ t, (lastEdge .rdbit false 0 .rT [.write 0 3]).busy = true ∧
      step (lastEdge .rdbit false 0 .rT [.write 0 3]) = .next t ∧ t.busy = false ∧
      (lastEdge .rdbit false 0 .rT [.write 0 3]).rstNow = false ∧
      (lastEdge .rdbit false 0 .rT [.write 0 3]).access = .ok (.write 0 3) :=
  ⟨_, rfl, rfl, rfl, rfl, rfl⟩

theorem witness_SlavesCannotDisturbAWrite :
    ∃ t t', (1 : Nat) ≤ commandUs (idleWith [.write 0 0xCC04]).timingSet (.wrbyte 0xCC false) * 1 + 1 ∧
      (idleWith [.write 0 0xCC04]).Starts (.wrbyte 0xCC false) 1 ∧ (idleWith [.write 0 0xCC04]).After 1 t ∧
      ({ idleWith [.write 0 0xCC04] with slvIn := [true] } : State).After 1 t' :=
  ⟨_, _, by decide, starts_idleWith rfl _ _ (by decide), rfl, rfl⟩

theorem witness_IdleHiddenFieldsAreNeverSeen :
    ∃ t t', (idleWith [.write 0 3]).busy = false ∧ (idleWith [.write 0 3]).After 1 t ∧
      ({ idleWith [.write 0 3] with op := .rdbyte, crcen := true, spd := true, data := 0xFF, bitIdx := 7, sh := 0xFF,
                                    smp := true } : State).After 1 t' := ⟨_, _, rfl, rfl, rfl⟩

theorem witness_HostMovesTakeTheirCycles :
    configLegal (cfgX 0) = true ∧ (idleWith [.write 0 3]).host = .write 0 3 :: [] ∧
    (idleWith [.read 1 "x"]).host = .read 1 "x" :: [] ∧ (idleWith [.poll]).host = .poll :: [] ∧
    (idleWith [.idle 1]).host = .idle (0 + 1) :: [] ∧ (idleWith [.idle 0, .poll]).host = .idle 0 :: [.poll] := by decide

theorem witness_BareReadsAndPartReadsTakeOneCycle :
    configLegal (cfgX 0) = true ∧ (idleWith [.look 7]).host = .look 7 :: [] ∧
    (idleWith [.readPart 2 "t" "x" 7 0]).host = .readPart 2 "t" "x" 7 0 :: [] := by decide

theorem witness_PseudoInstructionResultsAreBound :
    configLegal (cfgX 0) = true ∧
    (∃ m, (Pseudo.presence "p").expand.getLast? = some m ∧ (idleWith [m]).host = m :: []) ∧
    (∃ m, (Pseudo.rdb true "x").expand.getLast? = some m ∧ (idleWith [m]).host = m :: []) ∧
    (∃ m, (Pseudo.crcchk "ok").expand = [m] ∧ (idleWith [m]).host = m :: []) :=
  ⟨by decide, ⟨_, rfl, rfl⟩, ⟨_, rfl, rfl⟩, _, rfl, rfl⟩

end Sys2Proof.Tests
end

section
/-! SUPPORT. The parameter check of spec/00_scope.md R9 in the words of the rule, and what a step can be refused for. -/

namespace Sys2Proof.Machine

/-! ### The constraints on parameters -/

/-- A timing set is in use: `T_STD` always, `T_OD` when the block supports overdrive (R7). -/
def TimingInUse (cfg : Config) (T : TimingSet) : Prop := T = tStd ∨ (cfg.odSupported = true ∧ T = cfg.tOd)

/-- The check of one timing set in R9's integers: the model's `SYNC < T.rS*K` is the rule's `SYNC <= T.rS*K - 1`. -/
theorem timingLegal_iff (cfg : Config) (T : TimingSet) : timingLegal cfg T = true ↔
    (∀ d ∈ durations T, 1 ≤ d ∧ d < 2 ^ cfg.uw) ∧ (cfg.syncStages : Int) ≤ (T.rS * cfg.k : Int) - 1 ∧
      (cfg.syncStages : Int) ≤ (T.pds * cfg.k : Int) - 1 := by
  rw [Int.le_sub_one_iff, Int.le_sub_one_iff]
  norm_cast
  simp [timingLegal]

theorem configLegal_iff (cfg : Config) : configLegal cfg = true ↔
    1 ≤ cfg.k ∧ ∀ T, TimingInUse cfg T → timingLegal cfg T = true := by
  cases h : cfg.odSupported <;> simp [configLegal, TimingInUse, or_imp, forall_and, h]

/-! ### What is refused -/

theorem BusAccess.toAccess_error {cfg : Config} {a : BusAccess} {r : Refusal} (h : a.toAccess cfg = .error r) :
    r = .narrowOrWideAccess ∨ r = .misalignedAccess := by
  unfold BusAccess.toAccess at h
  split at h
  · exact .inl (Except.error.inj h).symm
  · split at h
    · exact .inr (Except.error.inj h).symm
    · cases hop : a.op <;> simp [hop] at h

theorem busAccess_error {cfg : Config} {accs : List BusAccess} {r : Refusal} (h : busAccess cfg accs = .error r) :
    r = .simultaneousAccess ∨ r = .narrowOrWideAccess ∨ r = .misalignedAccess := by
  unfold busAccess at h
  split at h
  · cases h
  · exact .inr (BusAccess.toAccess_error h)
  · exact .inl (Except.error.inj h).symm

/-- Only a platform's cycle has no access of the port (R51, R52). -/
theorem HostMove.access_error {cfg : Config} {m : HostMove} {r : Refusal} (h : m.access cfg = .error r) :
    r = .simultaneousAccess ∨ r = .narrowOrWideAccess ∨ r = .misalignedAccess := by
  cases m with
  | bus accs => exact busAccess_error h
  | _ => cases h

theorem State.access_error {s : State} {r : Refusal} (h : s.access = .error r) :
    r = .simultaneousAccess ∨ r = .narrowOrWideAccess ∨ r = .misalignedAccess := by
  unfold State.access at h
  split at h
  · cases h
  · exact HostMove.access_error h

/-- A step refuses the configuration exactly when the parameter check fails: the host's access is refused under other
names, and an edge is never refused. -/
theorem step_illegalConfig_iff (s : State) : step s = .refused .illegalConfig ↔ ¬ configLegal s.cfg = true := by
  rcases step_cases s with ⟨hc, hs⟩ | ⟨r, hc, ha, hs⟩ | ⟨acc, hc, -, hs⟩
  · simp [hc, hs]
  · have hr : r ≠ .illegalConfig := by rcases State.access_error ha with rfl | rfl | rfl <;> nofun
    simp [hc, hs, hr]
  · obtain ⟨t, ht, -⟩ := edge_next s.rstNow acc s.slvNow s.passCycle
    simp [hc, hs.trans ht]

/-- Settles O45: `step` refuses the configuration exactly when the check fails, and the check is R9 with R7's bound on
the durations; each broken constraint contradicts its part of the check. -/
theorem illegalConfigurationsAreRefused : Obligations.IllegalConfigurationsAreRefused := by
  intro s
  simp only [ne_eq, step_illegalConfig_iff, not_not, configLegal_iff, timingLegal_iff]
  refine ⟨?_, fun hk hT => ⟨hk, hT⟩⟩
  rintro hbad ⟨hk, hlegal⟩
  rcases hbad with hk' | ⟨T, hT, hbad⟩
  · exact hk'.not_ge hk
  · obtain ⟨hd, hrS, hpds⟩ := hlegal T hT
    rcases hbad with ⟨d, hmem, hd'⟩ | hrS' | hpds'
    · exact hd'.not_ge (hd d hmem).1
    · exact hrS'.not_ge hrS
    · exact hpds'.not_ge hpds

end Sys2Proof.Machine
end

section
/-! SUPPORT. What the host's access does at an edge, one case per kind of access, and what a step then is: a reset, an
access to an idle block, or an access beside a running engine. -/

namespace Sys2Proof.Machine

/-! ### The decoder and the legality test -/

theorem legal_iff (v : Word) : legal v = true ↔
    rsvdHi v = 0 ∧ rsvdLo v = 0 ∧ 1 ≤ (opField v).toNat ∧ (opField v).toNat ≤ 6 := by
  simp [legal, and_assoc]

/-- A word that decodes is legal, and its OP field is that of the command (R75, R76). -/
theorem decode_ok {v : Word} {i : Instr} (h : decode v = .ok i) : legal v = true ∧ v.toNat % 16 = i.op.toNat := by
  rw [legal_iff, ← opField_toNat]
  unfold decode at h
  split at h
  · cases h
  · split at h
    · cases h
    · rename_i hhi hlo
      refine ⟨⟨not_not.1 hhi, not_not.1 hlo, ?_⟩, ?_⟩ <;> split at h <;> cases h <;> simp [Instr.op, *]

/-- A word that does not decode is illegal (R76). -/
theorem decode_error {v : Word} {e : DecodeError} (h : decode v = .error e) : legal v = false := by
  rw [← Bool.not_eq_true, legal_iff]
  rintro ⟨hhi, hlo, h1, h6⟩
  simp only [decode, hhi, hlo, ne_eq, not_true_eq_false, if_false] at h
  interval_cases (opField v).toNat <;> cases h

/-! ### The effect of an access -/

@[simp] theorem State.clearCrc_busy (s : State) : s.clearCrc.busy = s.busy := rfl

/-- Everything an access presented in state `s` can do, one constructor per kind of access (R54, R99, R158). -/
inductive AccessEffect (s : State) : Access → State → Prop where
  | none : AccessEffect s .none s
  | read (i : Fin 8) : AccessEffect s (.read i) s
  | overrun (v : Word) (busy : s.busy = true) : AccessEffect s (.write 0 v) (s.flag .ovr)
  | illegal (v : Word) (idle : s.busy = false) (bad : legal v = false) : AccessEffect s (.write 0 v) (s.flag .ill)
  | start (v : Word) (op : Op) (c : Bool) (d : Byte) (P : Phase) (b : Bool) (idle : s.busy = false)
      (good : legal v = true) (notCrcclr : v.toNat % 16 ≠ 6) (owns : op.owns P = true) :
      AccessEffect s (.write 0 v) (s.accept op c d P b)
  | crcclr (v : Word) (idle : s.busy = false) (good : legal v = true) (isCrcclr : v.toNat % 16 = 6) :
      AccessEffect s (.write 0 v) s.clearCrc
  | status (v : Word) : AccessEffect s (.write 1 v) (s.clearFlags v)
  | ctrl (v : Word) : AccessEffect s (.write 4 v) (s.writeCtrl v)
  | ignored (i : Fin 8) (v : Word) (h0 : i ≠ 0) (h1 : i ≠ 1) (h4 : i ≠ 4) : AccessEffect s (.write i v) s

/-- A command accepted by an idle block, by its OP: CRCCLR is OP 6 and the others start a phase of their own. -/
theorem exec_effect {v : Word} {i : Instr} {s t : State} (hidle : s.busy = false) (hd : decode v = .ok i)
    (h : exec i s = .next t) : AccessEffect s (.write 0 v) t := by
  obtain ⟨hlegal, hop⟩ := decode_ok hd
  cases i with
  | crcclr d c =>
    simp only [exec, execCrcclr, hidle] at h
    cases h
    exact .crcclr v hidle hlegal hop
  | _ =>
    cases (startCommand_idle hidle).symm.trans h
    exact .start v _ _ _ _ _ hidle hlegal (by simp [hop, Instr.op]) rfl

theorem command_effect {v : Word} {s t : State} (h : command v s = .next t) : AccessEffect s (.write 0 v) t := by
  cases hb : s.busy with
  | true =>
    cases (command_busy v hb).symm.trans h
    exact .overrun v hb
  | false =>
    cases hd : decode v with
    | error e =>
      cases (command_idle_error hb hd).symm.trans h
      exact .illegal v hb (decode_error hd)
    | ok i => exact exec_effect hb hd ((command_idle_ok hb hd).symm.trans h)

theorem hostWrite_effect {i : Fin 8} {v : Word} {s t : State} (h : hostWrite i v s = .next t) :
    AccessEffect s (.write i v) t := by
  match i, h with
  | 0, h => exact command_effect h
  | 1, h => cases h; exact .status v
  | 4, h => cases h; exact .ctrl v
  | 2, h | 3, h | 5, h | 6, h | 7, h => cases h; exact .ignored _ v (by decide) (by decide) (by decide)

theorem hostAccess_effect {acc : Access} {s t : State} (h : hostAccess acc s = .next t) : AccessEffect s acc t := by
  cases acc with
  | none => cases h; exact .none
  | read i => cases h; exact .read i
  | write i v => exact hostWrite_effect h

namespace AccessEffect

variable {s t : State} {acc : Access}

theorem cfg_eq (h : AccessEffect s acc t) : t.cfg = s.cfg := by cases h <;> simp

theorem sync_eq (h : AccessEffect s acc t) : t.sync = s.sync := by cases h <;> simp

theorem ppd_eq (h : AccessEffect s acc t) : t.ppd = s.ppd := by cases h <;> simp

theorem rdata_eq (h : AccessEffect s acc t) : t.rdata = s.rdata := by cases h <;> simp

/-- No access reaches a running command (R62). -/
theorem toEngine_eq (h : AccessEffect s acc t) (hb : s.busy = true) : t.toEngine = s.toEngine := by
  cases h with
  | start v op c d P b hidle => cases hb.symm.trans hidle
  | crcclr v hidle => cases hb.symm.trans hidle
  | _ => simp

/-- SPEED keeps out of a mode the block does not have (R32). -/
theorem speed_supported (h : AccessEffect s acc t) (hs : s.speed = true → s.cfg.odSupported = true) :
    t.speed = true → s.cfg.odSupported = true := by
  cases h with
  | ctrl v => simpa [speedFrom] using fun h _ => h
  | _ => simpa using hs

end AccessEffect

/-! ### An edge and a step by the access's effect -/

/-- An edge that answers `t`: a reset, or the effect of the access, after which a busy engine advances (R90, R91). -/
theorem edge_effect {rst slv : Bool} {acc : Access} {s t : State} (h : edge rst acc slv s = .next t) :
    (rst = true ∧ t = s.toReset) ∨
    (rst = false ∧ ∃ u, AccessEffect (s.shiftSync (s.line false slv)) acc u ∧
      t = if s.busy then u.advance (s.seen (s.line false slv)) else u) := by
  cases rst with
  | true => cases h; exact .inl ⟨rfl, rfl⟩
  | false =>
    obtain ⟨u, hu, -⟩ := hostAccess_next acc (s.shiftSync (s.line false slv))
    simp only [edge, hu] at h
    cases h
    exact .inr ⟨rfl, u, hostAccess_effect hu, rfl⟩

/-- The state the host's access of the current cycle is applied to: the move is made and the synchroniser shifts. -/
def State.sampled (s : State) : State := s.passCycle.shiftSync (s.line false s.slvNow)

@[simp] theorem State.sampled_toEngine (s : State) : s.sampled.toEngine = s.toEngine := rfl
@[simp] theorem State.sampled_busy (s : State) : s.sampled.busy = s.busy := rfl
@[simp] theorem State.sampled_ill (s : State) : s.sampled.ill = s.ill := rfl
@[simp] theorem State.sampled_ovr (s : State) : s.sampled.ovr = s.ovr := rfl
@[simp] theorem State.sampled_speed (s : State) : s.sampled.speed = s.speed := rfl
@[simp] theorem State.sampled_cfg (s : State) : s.sampled.cfg = s.cfg := rfl
@[simp] theorem State.sampled_length (s : State) : s.sampled.sync.length = s.sync.length := by
  simp [State.sampled]

/-- A step that answers `t`, by the access `acc` the host makes: the block is reset, or it is idle and the access acts
alone, or it is busy and the engine advances after the access. -/
theorem step_effect {s t : State} (h : step s = .next t) : ∃ acc, s.access = .ok acc ∧
    ((s.rstNow = true ∧ t = s.passCycle.toReset) ∨
     (s.rstNow = false ∧ s.busy = false ∧ AccessEffect s.sampled acc t) ∨
     (s.rstNow = false ∧ s.busy = true ∧ ∃ u lv, AccessEffect s.sampled acc u ∧ t = u.advance lv)) := by
  obtain ⟨acc, -, ha, he⟩ := step_next_cases h
  refine ⟨acc, ha, ?_⟩
  rcases edge_effect he with hreset | ⟨hr, u, hu, ht⟩
  · exact .inl hreset
  · cases hb : s.busy with
    | false =>
      obtain rfl : t = u := by simpa [hb] using ht
      exact .inr (.inl ⟨hr, rfl, hu⟩)
    | true => exact .inr (.inr ⟨hr, rfl, u, _, hu, by simpa [hb] using ht⟩)

/-- The flags and SPEED after a step without reset are those the access leaves: the engine writes none of them. -/
theorem step_registers {s t : State} (h : step s = .next t) : ∃ acc, s.access = .ok acc ∧
    ((s.rstNow = true ∧ t = s.passCycle.toReset) ∨
     (s.rstNow = false ∧ ∃ u, AccessEffect s.sampled acc u ∧ t.ill = u.ill ∧ t.ovr = u.ovr ∧ t.speed = u.speed)) := by
  obtain ⟨acc, ha, hreset | ⟨hr, -, hu⟩ | ⟨hr, -, u, lv, hu, rfl⟩⟩ := step_effect h
  · exact ⟨acc, ha, .inl hreset⟩
  · exact ⟨acc, ha, .inr ⟨hr, t, hu, rfl, rfl, rfl⟩⟩
  · exact ⟨acc, ha, .inr ⟨hr, u, hu, rfl, rfl, rfl⟩⟩

end Sys2Proof.Machine
end

section
/-! SUPPORT. What an edge of a busy engine writes: the latched timing mode never, PPD, RDATA and the CRC register at the
end of a phase only (spec/40_timing_engine.md R93, R97, R98). -/

namespace Sys2Proof.Machine

/-! ### The fields a slot's end writes -/

@[simp] theorem Engine.nextSlot_spd (T : TimingSet) (e : Engine) : (e.nextSlot T).spd = e.spd := by
  rcases e.nextSlot_cases T with ⟨-, h⟩ | ⟨-, h⟩ <;> simp [h]

@[simp] theorem Engine.nextSlot_ppd (T : TimingSet) (e : Engine) : (e.nextSlot T).ppd = e.ppd := by
  rcases e.nextSlot_cases T with ⟨-, h⟩ | ⟨-, h⟩ <;> simp [h]

@[simp] theorem Engine.nextSlot_rdata (T : TimingSet) (e : Engine) : (e.nextSlot T).rdata = e.rdata := by
  rcases e.nextSlot_cases T with ⟨-, h⟩ | ⟨-, h⟩ <;> simp [h]

@[simp] theorem Engine.nextSlot_crc (T : TimingSet) (e : Engine) : (e.nextSlot T).crc = e.crc := by
  rcases e.nextSlot_cases T with ⟨-, h⟩ | ⟨-, h⟩ <;> simp [h]

@[simp] theorem Engine.slotEnd_spd (x : Bool) (T : TimingSet) (e : Engine) : (e.slotEnd x T).spd = e.spd := by
  rcases e.slotEnd_cases x T with ⟨-, -, h⟩ | ⟨-, h⟩ <;> simp [h]

@[simp] theorem Engine.slotEnd_ppd (x : Bool) (T : TimingSet) (e : Engine) : (e.slotEnd x T).ppd = e.ppd := by
  rcases e.slotEnd_cases x T with ⟨-, -, h⟩ | ⟨-, h⟩ <;> simp [h]

/-- Every slot's end, the last of a command or not, feeds the CRC register (R97, R141). -/
@[simp] theorem Engine.slotEnd_crc (x : Bool) (T : TimingSet) (e : Engine) :
    (e.slotEnd x T).crc = if e.crcen then crcStep e.crc x else e.crc := by
  rcases e.slotEnd_cases x T with ⟨-, -, h⟩ | ⟨-, h⟩
  · simp [h]
  · rw [h]; rfl

/-- RDATA at a slot's end: published by RDBIT, and by RDBYTE after its slot 7 (R97). -/
theorem Engine.slotEnd_rdata (x : Bool) (T : TimingSet) (e : Engine) : (e.slotEnd x T).rdata =
    if e.op = .rdbit then bitToByte x else if e.op = .rdbyte ∧ e.bitIdx = 7 then shiftIn x e.sh else e.rdata := by
  rcases e.slotEnd_cases x T with ⟨hbyte, hidx, h⟩ | ⟨hend, h⟩
  · have hbit : e.op ≠ .rdbit := by rintro hop; simp [hop, Op.isByte] at hbyte
    have hseven : e.bitIdx ≠ 7 := by rintro hi; simp [hi] at hidx
    simp [h, hbit, hseven]
  · cases hop : e.op with
    | rdbyte =>
      have hseven : e.bitIdx = 7 := by
        have : 7 ≤ e.bitIdx.val := by simpa [hop, Op.isByte] using hend
        omega
      simp [h, hop, hseven]
    | _ => simp [h, hop]

/-! ### The fields an edge writes -/

/-- An edge at which no phase ends moves only the slot timer (R93). -/
theorem State.advance_of_not_phaseEnds {s : State} (h : s.phaseEnds = false) (lv : Bool) :
    ∃ p u, s.toEngine.advance s.cfg lv = { s.toEngine with pre := p, us := u } := by
  rcases s.toEngine.advance_cases s.cfg lv with ⟨-, ha⟩ | ⟨-, -, ha⟩ | ⟨hp, hu, -⟩
  · exact ⟨_, _, ha⟩
  · exact ⟨_, _, ha⟩
  · simp [State.phaseEnds, hp, hu] at h

theorem State.advance_of_phaseEnds {s : State} (h : s.phaseEnds = true) (lv : Bool) :
    s.toEngine.advance s.cfg lv = ({ s.toEngine with pre := 0 } : Engine).phaseEnd lv (timing s.cfg s.spd) := by
  simp only [State.phaseEnds, Bool.and_eq_true, decide_eq_true_eq] at h
  rcases s.toEngine.advance_cases s.cfg lv with ⟨hp, -⟩ | ⟨-, hu, -⟩ | ⟨-, -, ha⟩
  · omega
  · omega
  · exact ha

@[simp] theorem Engine.phaseEnd_spd (lv : Bool) (T : TimingSet) (e : Engine) : (e.phaseEnd lv T).spd = e.spd := by
  cases h : e.phase <;> simp [Engine.phaseEnd, h]

theorem Engine.phaseEnd_ppd (lv : Bool) (T : TimingSet) (e : Engine) :
    (e.phaseEnd lv T).ppd = if e.phase = .rstS then !e.smp else e.ppd := by
  cases h : e.phase <;> simp [Engine.phaseEnd, h]

/-- The CRC register at a phase's end: a write slot feeds its DATA bit, a read slot its sample (R97, R141). -/
theorem Engine.phaseEnd_crc (lv : Bool) (T : TimingSet) (e : Engine) : (e.phaseEnd lv T).crc =
    if e.crcen then
      (if e.phase = .wH then crcStep e.crc (slotBit e.data e.bitIdx)
       else if e.phase = .rT then crcStep e.crc e.smp else e.crc)
    else e.crc := by
  cases h : e.phase <;> simp [Engine.phaseEnd, h]

/-- RDATA at a phase's end: a read command publishes at the end of its last T phase (R97). -/
theorem Engine.phaseEnd_rdata (lv : Bool) (T : TimingSet) {e : Engine} (hown : e.op.owns e.phase = true) :
    (e.phaseEnd lv T).rdata =
      if e.phase = .rT then
        (if e.op = .rdbit then bitToByte e.smp
         else if e.op = .rdbyte ∧ e.bitIdx = 7 then shiftIn e.smp e.sh else e.rdata)
      else e.rdata := by
  cases hP : e.phase with
  | wH =>
    have hop : e.op ≠ .rdbit ∧ e.op ≠ .rdbyte := by
      constructor <;> (intro h; simp [h, hP, Op.owns] at hown)
    simp [Engine.phaseEnd, hP, Engine.slotEnd_rdata, hop]
  | _ => simp [Engine.phaseEnd, hP, Engine.slotEnd_rdata]

/-- A running command keeps the timing mode it was accepted with (R32). -/
@[simp] theorem Engine.advance_spd (cfg : Config) (lv : Bool) (e : Engine) : (e.advance cfg lv).spd = e.spd := by
  rcases e.advance_cases cfg lv with ⟨-, h⟩ | ⟨-, -, h⟩ | ⟨-, -, h⟩ <;> simp [h]

theorem State.advance_ppd (s : State) (lv : Bool) : (s.toEngine.advance s.cfg lv).ppd =
    if s.phase = .rstS ∧ s.phaseEnds = true then !s.smp else s.ppd := by
  cases h : s.phaseEnds with
  | false => obtain ⟨p, u, ha⟩ := State.advance_of_not_phaseEnds h lv; simp [ha]
  | true => simp [State.advance_of_phaseEnds h lv, Engine.phaseEnd_ppd]

theorem State.advance_crc (s : State) (lv : Bool) : (s.toEngine.advance s.cfg lv).crc =
    if s.phaseEnds = true ∧ s.crcen = true then
      (if s.phase = .wH then crcStep s.crc (s.data.getLsbD s.bitIdx)
       else if s.phase = .rT then crcStep s.crc s.smp else s.crc)
    else s.crc := by
  cases h : s.phaseEnds with
  | false => obtain ⟨p, u, ha⟩ := State.advance_of_not_phaseEnds h lv; simp [ha]
  | true => simp [State.advance_of_phaseEnds h lv, Engine.phaseEnd_crc, slotBit]

theorem State.advance_rdata {s : State} (hown : s.op.owns s.phase = true) (lv : Bool) :
    (s.toEngine.advance s.cfg lv).rdata =
      if s.phase = .rT ∧ s.phaseEnds = true ∧ s.op = .rdbit then bitToByte s.smp
      else if s.phase = .rT ∧ s.phaseEnds = true ∧ s.op = .rdbyte ∧ s.bitIdx = 7 then shiftIn s.smp s.sh
      else s.rdata := by
  cases h : s.phaseEnds with
  | false => obtain ⟨p, u, ha⟩ := State.advance_of_not_phaseEnds h lv; simp [ha]
  | true =>
    rw [State.advance_of_phaseEnds h lv, Engine.phaseEnd_rdata lv _ (by exact hown)]
    by_cases hP : s.phase = .rT <;> simp [hP]

/-! ### The bytes a read publishes, as numbers -/

theorem bitToByte_eq (x : Bool) : bitToByte x = if x then 1 else 0 := by
  cases x <;> rfl

/-- `{x, sh[7:1]}` is `sh` halved, with `x` at weight 128 (R97). -/
theorem shiftIn_eq (x : Bool) (sh : Byte) : shiftIn x sh = BitVec.ofNat 8 (sh.toNat / 2 + if x then 128 else 0) := by
  revert x sh; decide

end Sys2Proof.Machine
end

section
/-! SUPPORT. Every step keeps the invariant of spec/10_state.md R35: what a phase needs to be entered, and that the end of
every phase, every access and every edge of the engine give it. -/

namespace Sys2Proof.Machine

/-! ### Durations -/

theorem le_maxDuration {T : TimingSet} {d : Nat} (h : d ∈ durations T) : d ≤ maxDuration T :=
  have hmax : (0 :: durations T).max? = some (maxDuration T) := List.max?_cons'
  (List.max?_le_iff hmax).1 le_rfl d (List.mem_cons_of_mem 0 h)

theorem dur_mem_durations {P : Phase} (hP : P ≠ .idle) (b : Bool) (T : TimingSet) : dur P b T ∈ durations T := by
  cases P with
  | idle => contradiction
  | wL => cases b <;> simp [dur, durations]
  | wH => cases b <;> simp [dur, durations]
  | _ => simp [dur, durations]

/-- In a mode the block has, a phase lasts at least a microsecond and at most the longest duration (R9, R35). -/
theorem dur_bounds {cfg : Config} {spd : Bool} {P : Phase} (hc : configLegal cfg = true)
    (hspd : spd = true → cfg.odSupported = true) (hP : P ≠ .idle) (b : Bool) :
    1 ≤ dur P b (timing cfg spd) ∧ dur P b (timing cfg spd) ≤ maxDuration (timing cfg spd) := by
  have huse : TimingInUse cfg (timing cfg spd) := by
    cases spd with
    | false => exact .inl rfl
    | true => exact .inr ⟨hspd rfl, rfl⟩
  have hmem := dur_mem_durations hP b (timing cfg spd)
  have hlegal := (timingLegal_iff _ _).1 (((configLegal_iff cfg).1 hc).2 _ huse)
  exact ⟨(hlegal.1 _ hmem).1, le_maxDuration hmem⟩

/-! ### The phases of a command -/

theorem Op.ne_none_of_owns {op : Op} {P : Phase} (h : op.owns P = true) : op ≠ .none := by
  rintro rfl; cases P <;> cases h

theorem Op.ne_idle_of_owns {op : Op} {P : Phase} (h : op.owns P = true) : P ≠ .idle := by
  rintro rfl; cases op <;> cases h

theorem Op.isByte_iff {op : Op} : op.isByte = true ↔ op = .wrbyte ∨ op = .rdbyte := by
  cases op <;> simp [Op.isByte]

/-- A reset phase leads to the next reset phase, a low phase of a slot to its other phases, of one command (R97). -/
theorem Op.owns_next (op : Op) :
    (op.owns .rstL = op.owns .rstW) ∧ (op.owns .rstW = op.owns .rstS) ∧ (op.owns .wL = op.owns .wH) ∧
    (op.owns .rL = op.owns .rS) ∧ (op.owns .rS = op.owns .rT) := by
  cases op <;> decide

/-! ### The invariant of the engine -/

/-- The clauses of R35 about what acceptance latched: the mode is one the block has, and only byte commands have a slot
index beyond 0. -/
structure Engine.Latched (cfg : Config) (e : Engine) : Prop where
  spd : e.spd = true → cfg.odSupported = true
  slot : e.op = .reset ∨ e.op = .rdbit ∨ e.op = .wrbit → e.bitIdx = 0

/-- The clauses of R35 about the engine. -/
structure Engine.Inv (cfg : Config) (e : Engine) : Prop extends Engine.Latched cfg e where
  idle : e.phase = .idle → e.drive = false ∧ e.pre = 0 ∧ e.us = 0
  busy : e.phase ≠ .idle → e.op ≠ .none ∧ 1 ≤ e.us ∧ e.us ≤ maxDuration (timing cfg e.spd) ∧ e.pre ≤ cfg.k - 1 ∧
    e.op.owns e.phase = true ∧ e.drive = drv e.phase

theorem State.inv_iff (s : State) : s.Inv ↔ configLegal s.cfg = true ∧ (s.speed = true → s.cfg.odSupported = true) ∧
    s.sync.length = s.cfg.syncStages ∧ s.toEngine.Inv s.cfg := by
  constructor
  · rintro ⟨hc, hspeed, hspd, hsync, hidle, hbusy, hslot⟩
    exact ⟨hc, hspeed, hsync, ⟨⟨hspd, hslot⟩, hidle, hbusy⟩⟩
  · rintro ⟨hc, hspeed, hsync, ⟨⟨hspd, hslot⟩, hidle, hbusy⟩⟩
    exact ⟨hc, hspeed, hspd, hsync, hidle, hbusy, hslot⟩

theorem Engine.reset_inv (cfg : Config) : Engine.reset.Inv cfg where
  spd := nofun
  slot _ := rfl
  idle _ := ⟨rfl, rfl, rfl⟩
  busy h := absurd rfl h

theorem Engine.Inv.clearCrc {cfg : Config} {e : Engine} (h : e.Inv cfg) : ({ e with crc := 0 } : Engine).Inv cfg :=
  ⟨⟨h.spd, h.slot⟩, h.idle, h.busy⟩

section
variable {cfg : Config} {e : Engine} {P : Phase} {x lv : Bool}

/-- Entering a phase of the command in progress gives the invariant (R96). -/
theorem Engine.Latched.enter (h : e.Latched cfg) (hc : configLegal cfg = true) (hown : e.op.owns P = true) (b : Bool) :
    (e.enter P b (timing cfg e.spd)).Inv cfg := by
  have hP := Op.ne_idle_of_owns hown
  obtain ⟨hpos, hmax⟩ := dur_bounds hc h.spd hP b
  exact ⟨⟨h.spd, h.slot⟩, fun hi => absurd hi hP,
    fun _ => ⟨Op.ne_none_of_owns hown, hpos, hmax, Nat.zero_le _, hown, rfl⟩⟩

/-- `finish` gives the invariant (R98). -/
theorem Engine.Latched.finish (h : e.Latched cfg) : e.finish.Inv cfg :=
  ⟨⟨h.spd, h.slot⟩, fun _ => ⟨rfl, rfl, rfl⟩, fun hb => absurd rfl hb⟩

/-- The next slot of a byte command gives the invariant: its low phase is the command's own (R130). -/
theorem Engine.Latched.nextSlot (h : e.Latched cfg) (hc : configLegal cfg = true) (hbyte : e.op.isByte = true) :
    (e.nextSlot (timing cfg e.spd)).Inv cfg := by
  have hlatched : ({ e with bitIdx := nextIdx e.bitIdx } : Engine).Latched cfg := by
    refine ⟨h.spd, fun hop => ?_⟩
    rcases Op.isByte_iff.1 hbyte with hb | hb <;> simp [hb] at hop
  rcases e.nextSlot_cases (timing cfg e.spd) with ⟨hop, hn⟩ | ⟨hop, hn⟩
  · rw [hn]
    exact hlatched.enter hc (by simp [hop, Op.owns]) _
  · rw [hn]
    exact hlatched.enter hc (by simp [(Op.isByte_iff.1 hbyte).resolve_left hop, Op.owns]) _

theorem Engine.Latched.slotEnd (h : e.Latched cfg) (hc : configLegal cfg = true) :
    (e.slotEnd x (timing cfg e.spd)).Inv cfg := by
  rcases e.slotEnd_cases x (timing cfg e.spd) with ⟨hbyte, -, hs⟩ | ⟨-, hs⟩
  · rw [hs]
    have hfed : ((e.feedCrc x).feedShift x).Latched cfg := ⟨h.spd, h.slot⟩
    exact hfed.nextSlot hc hbyte
  · rw [hs]
    have hfed : (((e.publish x).feedCrc x).feedShift x).Latched cfg := ⟨h.spd, h.slot⟩
    exact hfed.finish

/-- The end of a phase of the command in progress gives the invariant (R97). -/
theorem Engine.Latched.phaseEnd (h : e.Latched cfg) (hc : configLegal cfg = true) (hown : e.op.owns e.phase = true) :
    (e.phaseEnd lv (timing cfg e.spd)).Inv cfg := by
  obtain ⟨hrstL, hrstW, hwL, hrL, hrS⟩ := Op.owns_next e.op
  have hsampled : ({ e with smp := lv } : Engine).Latched cfg := ⟨h.spd, h.slot⟩
  cases hP : e.phase <;> rw [hP] at hown <;> simp only [Engine.phaseEnd, hP]
  case idle => exact absurd rfl (Op.ne_idle_of_owns hown)
  case rstL => exact h.enter hc (hrstL ▸ hown) _
  case rstW => exact hsampled.enter hc (hrstW ▸ hown) _
  case rstS => exact Engine.Latched.finish ⟨h.spd, h.slot⟩
  case wL => exact h.enter hc (hwL ▸ hown) _
  case wH => exact h.slotEnd hc
  case rL => exact h.enter hc (hrL ▸ hown) _
  case rS => exact hsampled.enter hc (hrS ▸ hown) _
  case rT => exact h.slotEnd hc

/-- An edge of a busy engine keeps the invariant, whatever it does (R93). -/
theorem Engine.Inv.advance (h : e.Inv cfg) (hc : configLegal cfg = true) (hb : e.phase ≠ .idle) :
    (e.advance cfg lv).Inv cfg := by
  obtain ⟨hop, hus, hmax, hpre, hown, hdrive⟩ := h.busy hb
  rcases e.advance_cases cfg lv with ⟨hp, ha⟩ | ⟨hp, hu, ha⟩ | ⟨hp, hu, ha⟩ <;> rw [ha]
  · exact ⟨⟨h.spd, h.slot⟩, fun hi => absurd hi hb, fun _ => ⟨hop, hus, hmax, hp, hown, hdrive⟩⟩
  · exact ⟨⟨h.spd, h.slot⟩, fun hi => absurd hi hb,
      fun _ => ⟨hop, Nat.le_sub_one_of_lt hu, (Nat.sub_le _ _).trans hmax, Nat.zero_le _, hown, hdrive⟩⟩
  · have hlatched : ({ e with pre := 0 } : Engine).Latched cfg := ⟨h.spd, h.slot⟩
    exact hlatched.phaseEnd hc hown

end

/-! ### The invariant over a step -/

/-- The effect of an access on the engine's invariant: acceptance enters a phase in a mode SPEED allows (R99). -/
theorem AccessEffect.engine_inv {s t : State} {acc : Access} (h : AccessEffect s acc t) (hc : configLegal s.cfg = true)
    (hspeed : s.speed = true → s.cfg.odSupported = true) (he : s.toEngine.Inv s.cfg) : t.toEngine.Inv s.cfg := by
  cases h with
  | start v op c d P b hidle hgood hnot hown =>
    have hlatched : (s.toEngine.latch op c d s.speed).Latched s.cfg := ⟨hspeed, fun _ => rfl⟩
    exact hlatched.enter hc hown b
  | crcclr => exact he.clearCrc
  | _ => simpa using he

/-- An access keeps the invariant. -/
theorem AccessEffect.inv {s t : State} {acc : Access} (h : AccessEffect s acc t) (hs : s.Inv) : t.Inv := by
  obtain ⟨hc, hspeed, hsync, he⟩ := s.inv_iff.1 hs
  refine t.inv_iff.2 ?_
  rw [h.cfg_eq, h.sync_eq]
  exact ⟨hc, h.speed_supported hspeed, hsync, h.engine_inv hc hspeed he⟩

theorem State.Inv.advance {s : State} (h : s.Inv) (hb : s.busy = true) (lv : Bool) : (s.advance lv).Inv := by
  obtain ⟨hc, hspeed, hsync, he⟩ := s.inv_iff.1 h
  exact (State.inv_iff _).2 ⟨hc, hspeed, hsync, he.advance hc (s.toEngine.busy_eq_true.1 hb)⟩

theorem State.toReset_inv {s : State} (hc : configLegal s.cfg = true) : s.toReset.Inv :=
  (State.inv_iff _).2 ⟨hc, nofun, List.length_replicate, Engine.reset_inv _⟩

theorem State.Inv.sampled {s : State} (h : s.Inv) : s.sampled.Inv := by
  obtain ⟨hc, hspeed, hsync, he⟩ := s.inv_iff.1 h
  exact (State.inv_iff _).2 ⟨hc, hspeed, s.sampled_length.trans hsync, he⟩

/-- Settles O33: a reset, an access and an edge of the engine each keep the invariant, and a step is made of these. -/
theorem everyStepKeepsTheInvariant : Obligations.EveryStepKeepsTheInvariant := by
  intro s t hs h
  obtain ⟨acc, -, ⟨-, rfl⟩ | ⟨-, -, hu⟩ | ⟨-, hb, u, lv, hu, rfl⟩⟩ := step_effect h
  · exact State.toReset_inv hs.1
  · exact hu.inv hs.sampled
  · have hub : u.busy = true := by rw [State.busy_def, hu.toEngine_eq hb]; exact hb
    exact (hu.inv hs.sampled).advance hub lv

end Sys2Proof.Machine
end

section
/-! SUPPORT. The obligations on the registers: the flags, SPEED, PPD, RDATA and the CRC register over every step. -/

namespace Sys2Proof.Machine

/-- Settles O31: both ports are Boolean functions of `drive`, `rst` and the slaves' pull. -/
theorem wiredAndLine : Obligations.WiredAndLine := by
  intro rst slv s
  have hoe : s.dqOe rst = true ↔ s.drive = true ∧ rst = false := by simp [State.dqOe]
  refine ⟨hoe, ?_⟩
  rw [← hoe]
  cases h : s.dqOe rst <;> simp [State.line, h]

/-- The mode and first duration of an accepted command (R95, R99). -/
theorem exec_latches_mode {i : Instr} {s t : State} (hidle : s.busy = false) (h : exec i s = .next t)
    (hbusy : t.busy = true) : t.spd = s.speed ∧ t.us = dur t.phase (i.data.getLsbD 0) (timing s.cfg s.speed) := by
  cases i with
  | crcclr d c =>
    simp only [exec, execCrcclr, hidle] at h
    cases h
    exact absurd hbusy (by simpa using hidle)
  | _ =>
    cases (startCommand_idle hidle).symm.trans h
    exact ⟨rfl, rfl⟩

/-- A CTRL write takes effect at its own edge, and the engine keeps its latched mode (R32, R54). -/
theorem edge_writeCtrl {v : Word} {slv : Bool} {s t : State} (h : edge false (.write 4 v) slv s = .next t) :
    t.speed = speedFrom s.cfg v ∧ t.spd = s.spd := by
  change Host.Outcome.next (if s.busy then _ else _) = _ at h
  cases h
  split <;> exact ⟨rfl, by simp⟩

/-- Settles O19: the CTRL write is the access's only effect on SPEED, `advance` keeps the latched mode, and acceptance
takes both from SPEED. -/
theorem speedSelectsTheModeOfLaterCommands : Obligations.SpeedSelectsTheModeOfLaterCommands := by
  intro s t
  refine ⟨fun v slv h => ?_, fun i hidle h hbusy => exec_latches_mode hidle h hbusy, fun hod hs h => ?_⟩
  · obtain ⟨hspeed, hspd⟩ := edge_writeCtrl h
    have hv : t.speed = if s.cfg.odSupported then v.getLsbD 0 else false := by
      cases hod : s.cfg.odSupported <;> simp [hspeed, speedFrom, hod]
    refine ⟨hv, ?_, hspd⟩
    rw [← hv]
    cases hb : t.speed <;> simp [State.regRead, hb]
  · obtain ⟨acc, -, ⟨-, rfl⟩ | ⟨-, u, hu, -, -, hspeed⟩⟩ := step_registers h
    · rfl
    · have hsup := hu.speed_supported (by simp [hs])
      simpa [hspeed, hod] using hsup

/-- ILL after the effect of an access (R28). -/
theorem AccessEffect.ill_iff {s u : State} {acc : Access} (h : AccessEffect s acc u) : u.ill = true ↔
    (∃ v, acc = .write 0 v ∧ s.busy = false ∧ legal v = false) ∨
    (s.ill = true ∧ ¬ ∃ v, acc = .write 1 v ∧ v.getLsbD 3 = true) := by
  cases h <;> simp [*]

/-- OVR after the effect of an access (R29). -/
theorem AccessEffect.ovr_iff {s u : State} {acc : Access} (h : AccessEffect s acc u) : u.ovr = true ↔
    (∃ v, acc = .write 0 v ∧ s.busy = true) ∨
    (s.ovr = true ∧ ¬ ∃ v, acc = .write 1 v ∧ v.getLsbD 4 = true) := by
  cases h <;> simp [*]

/-- Settles O21: reset clears both flags, and otherwise they are what the access leaves. -/
theorem errorFlagsAreSticky : Obligations.ErrorFlagsAreSticky := by
  intro s t h
  obtain ⟨acc, ha, ⟨hr, rfl⟩ | ⟨hr, u, hu, hill, hovr, -⟩⟩ := step_registers h
  · rw [hr]
    constructor <;> simp
  · rw [hill, hovr, hu.ill_iff, hu.ovr_iff, ha, hr]
    simp

/-- Settles O23: an access leaves PPD, and so does an edge of the engine but the end of RESET's last phase. -/
theorem ppdIsWrittenAtTheFinishOfResetOnly : Obligations.PpdIsWrittenAtTheFinishOfResetOnly := by
  intro s t h
  obtain ⟨acc, -, ⟨hr, rfl⟩ | ⟨hr, hb, hu⟩ | ⟨hr, hb, u, lv, hu, rfl⟩⟩ := step_effect h
  · rw [hr]; rfl
  · have hP : s.phase = .idle := s.toEngine.busy_eq_false.1 hb
    simp only [hr, hP, hu.ppd_eq]
    simp
  · rw [hr, State.advance_toEngine, hu.toEngine_eq hb, hu.cfg_eq]
    exact s.advance_ppd lv

/-- Settles O24: as for PPD, with the end of a read command's last phase; the invariant gives that a phase belongs to
the command in progress. -/
theorem rdataIsWrittenAtTheFinishOfReadsOnly : Obligations.RdataIsWrittenAtTheFinishOfReadsOnly := by
  rintro s t ⟨-, -, -, -, -, hbusy, -⟩ h
  refine ⟨?_, BitVec.toNat_setWidth_of_le (by decide), fun v => rfl⟩
  obtain ⟨acc, -, ⟨hr, rfl⟩ | ⟨hr, hb, hu⟩ | ⟨hr, hb, u, lv, hu, rfl⟩⟩ := step_effect h
  · rw [hr]; rfl
  · have hP : s.phase = .idle := s.toEngine.busy_eq_false.1 hb
    simp only [hr, hP, hu.rdata_eq]
    simp
  · obtain ⟨-, -, -, -, hown, -⟩ := hbusy (s.toEngine.busy_eq_true.1 hb)
    rw [hr, State.advance_toEngine, hu.toEngine_eq hb, hu.cfg_eq, ← bitToByte_eq, ← shiftIn_eq]
    exact State.advance_rdata hown lv

/-- Settles O25: while busy the CRC register is what `advance` makes of it, while idle what the access does. -/
theorem crcIsWrittenBySlotEndsAndCrcclrOnly : Obligations.CrcIsWrittenBySlotEndsAndCrcclrOnly := by
  intro s t h
  refine ⟨?_, BitVec.toNat_setWidth_of_le (by decide), fun v => rfl⟩
  obtain ⟨acc, ha, ⟨hr, rfl⟩ | ⟨hr, hb, hu⟩ | ⟨hr, hb, u, lv, hu, rfl⟩⟩ := step_effect h
  · rw [hr]; rfl
  · rw [hr, hb, ha]
    cases hu with
    | overrun v hbusy => cases hb.symm.trans hbusy
    | _ => simp [*]
  · rw [hr, hb, State.advance_toEngine, hu.toEngine_eq hb, hu.cfg_eq]
    exact s.advance_crc lv

end Sys2Proof.Machine
end

section
/-! SUPPORT. The register port of spec/20_memory.md: what a read of each index returns, and what a write of each index
does at its edge. -/

namespace Sys2Proof.Machine

/-! ### Reads -/

/-- STATUS as a sum of bit weights, in the state elements it shows (R24 to R29). -/
theorem State.status_weights (s : State) : s.status.toNat =
    (if s.phase ≠ .idle then 1 else 0) + (if s.ppd then 2 else 0) + (if s.crc = 0 then 4 else 0)
      + (if s.ill then 8 else 0) + (if s.ovr then 16 else 0) := by
  have hbusy : s.busy = true ↔ s.phase ≠ .idle := s.toEngine.busy_eq_true
  have hcrc : s.crcOk = true ↔ s.crc = 0 := beq_iff_eq
  simp only [s.status_toNat, Bool.toNat, Bool.cond_eq_ite, hbusy, hcrc, mul_ite, mul_one, mul_zero]

/-- CTRL reads as SPEED in bit 0 (R32, R53). -/
theorem State.regRead_ctrl_toNat (s : State) : (s.regRead 4).toNat = if s.speed then 1 else 0 := by
  change ((BitVec.ofBool s.speed).setWidth 32).toNat = _
  cases s.speed <;> rfl

/-- In a cycle that reads index `i`, `rdata` is that register's value (R36, R53). -/
theorem State.rdataPort_read {s : State} {i : Fin 8} (h : s.access = .ok (.read i)) :
    s.rdataPort = some (s.regRead i) := by
  simp [State.rdataPort, h]

/-- Settles O17: STATUS by its bit weights, RDATA and CRC zero-extended, CTRL by SPEED, and 0 at the other indices; at
an edge a read is no access at all. -/
theorem registerReads : Obligations.RegisterReads := by
  intro s
  exact ⟨rfl, s.status_weights, BitVec.toNat_setWidth_of_le (by decide), BitVec.toNat_setWidth_of_le (by decide),
    s.regRead_ctrl_toNat, rfl, rfl, rfl, fun i slv => rfl, fun i => State.rdataPort_read⟩

/-! ### Writes -/

/-- Clearing a flag where a bit is 1, as a choice on the bit (R54). -/
theorem State.clearFlags_eq (v : Word) (s : State) : s.clearFlags v =
    { s with ill := if v.getLsbD 3 then false else s.ill, ovr := if v.getLsbD 4 then false else s.ovr } := by
  have hclear (f b : Bool) : (f && !b) = if b then false else f := by cases b <;> simp
  simp only [State.clearFlags, hclear]

/-- SPEED takes bit 0 where there is overdrive, and else 0 (R32). -/
theorem speedFrom_eq (cfg : Config) (v : Word) :
    speedFrom cfg v = if cfg.odSupported then v.getLsbD 0 else false := by
  cases hod : cfg.odSupported <;> simp [speedFrom, hod]

theorem hostWrite_ctrl (v : Word) (s : State) : hostWrite 4 v s = .next (s.writeCtrl v) := rfl

theorem hostWrite_status (v : Word) (s : State) : hostWrite 1 v s = .next (s.clearFlags v) := rfl

/-- Only CMD, STATUS and CTRL take a write (R30, R31, R33, R54). -/
theorem hostWrite_ignored {i : Fin 8} (v : Word) (s : State) (h0 : i ≠ 0) (h1 : i ≠ 1) (h4 : i ≠ 4) :
    hostWrite i v s = .next s := by
  match i with
  | 0 => contradiction
  | 1 => contradiction
  | 4 => contradiction
  | 2 | 3 | 5 | 6 | 7 => rfl

/-- The edge of a busy block is the access, applied with the synchroniser's shift, and then `advance` (R90). -/
theorem edge_busy_advance (acc : Access) (slv : Bool) {s : State} (h : s.busy = true) :
    ∃ t, hostAccess acc (s.shiftSync (s.line false slv)) = .next t ∧
      edge false acc slv s = .next (t.advance (s.seen (s.line false slv))) := by
  obtain ⟨t, ht, -⟩ := hostAccess_next acc (s.shiftSync (s.line false slv))
  exact ⟨t, ht, by simp [edge, h, ht]⟩

/-- Settles O18: the edge is the write alone while idle and the write beside `advance` while busy, and the write is the
command rule, the clearing of flags, the CTRL write, or nothing, by its index. -/
theorem registerWrites : Obligations.RegisterWrites := by
  intro v s
  refine ⟨fun i slv => edge_idle, fun i slv => edge_busy_advance (.write i v) slv, rfl, ?_, ?_,
    fun i => hostWrite_ignored v s⟩
  · rw [hostWrite_status, s.clearFlags_eq]
  · rw [hostWrite_ctrl, State.writeCtrl, speedFrom_eq]

end Sys2Proof.Machine
end

section
/-! SUPPORT. The command word of spec/30_encoding.md: the arithmetic of R76 and the encoder on decoded words. -/

namespace Sys2Proof

/-- R76 by arithmetic on the word's value. -/
theorem legal_iff_toNat (v : Word) : legal v = true ↔
    v.toNat / 2 ^ 16 = 0 ∧ v.toNat / 2 ^ 5 % 8 = 0 ∧ 1 ≤ v.toNat % 16 ∧ v.toNat % 16 ≤ 6 := by
  have hhi : rsvdHi v = 0 ↔ v.toNat / 2 ^ 16 = 0 := by rw [← rsvdHi_toNat, ← BitVec.toNat_inj]; rfl
  have hlo : rsvdLo v = 0 ↔ v.toNat / 2 ^ 5 % 8 = 0 := by rw [← rsvdLo_toNat, ← BitVec.toNat_inj]; rfl
  rw [Machine.legal_iff, hhi, hlo, opField_toNat]

/-- The legal words are those the decoder reads (R75, R76). -/
theorem legal_iff_decode (v : Word) : legal v = true ↔ ∃ i, decode v = .ok i := by
  constructor
  · intro hlegal
    cases hd : decode v with
    | ok i => exact ⟨i, rfl⟩
    | error e => cases (Machine.decode_error hd).symm.trans hlegal
  · rintro ⟨i, hd⟩
    exact (Machine.decode_ok hd).1

/-- A decoded command carries the word's operand fields (R72, R73). -/
theorem decode_operands {v : Word} {i : Instr} (h : decode v = .ok i) :
    i.data = dataField v ∧ i.crcen = crcenField v := by
  unfold decode at h
  split at h
  · cases h
  · split at h
    · cases h
    · split at h <;> cases h <;> exact ⟨rfl, rfl⟩

/-- No bit of a legal word is lost: its command encodes to it (R70). -/
theorem encode_of_decode {v : Word} {i : Instr} (h : decode v = .ok i) : encode i = v := by
  obtain ⟨hlegal, hop⟩ := Machine.decode_ok h
  obtain ⟨hdata, hcrcen⟩ := decode_operands h
  obtain ⟨hhi, hlo, -⟩ := (legal_iff_toNat v).1 hlegal
  apply BitVec.eq_of_toNat_eq
  rw [encode_toNat, ← hop, hcrcen, hdata, crcenField_toNat, dataField_toNat]
  omega

/-- A command is read back from its word (R75). -/
theorem decode_encode (i : Instr) : decode (encode i) = .ok i := by
  rcases i with ⟨d, c⟩ | ⟨d, c⟩ | ⟨d, c⟩ | ⟨d, c⟩ | ⟨d, c⟩ | ⟨d, c⟩ <;> revert d c <;> decide

theorem encode_injective {i j : Instr} (h : encode i = encode j) : i = j := by
  have hd : decode (encode i) = decode (encode j) := congrArg decode h
  rw [decode_encode, decode_encode] at hd
  exact Except.ok.inj hd

namespace Machine

theorem command_illegal {v : Word} {s : State} (hlegal : legal v = false) (hidle : s.busy = false) :
    command v s = .next (s.flag .ill) := by
  cases hd : decode v with
  | ok i => cases (decode_ok hd).1.symm.trans hlegal
  | error e => exact command_idle_error hidle hd

/-- Settles O1: R76's fields are quotients and remainders of the word's value, the decoder refuses just the illegal
words, and a CMD write checks BUSY before legality. -/
theorem illegalWordsSetIllOrOvrOnly : Obligations.IllegalWordsSetIllOrOvrOnly := fun v _ =>
  ⟨legal_iff_toNat v, legal_iff_decode v, command_illegal, fun _ hbusy => command_busy v hbusy⟩

end Machine

end Sys2Proof
end

section
/-! SUPPORT. The latched `data` is read by the write commands only: states that differ in it alone, where the rest of
the command in progress does not read the difference, stay so at every edge (spec/30_encoding.md R77). -/

namespace Sys2Proof.Machine

/-! ### The engine -/

/-- The engine with another byte in the hidden latch of DATA. -/
def Engine.withData (d : Byte) (e : Engine) : Engine := { e with data := d }

/-- The rest of the command in progress is the same with `d` latched: no further byte slot is sent, and a write slot in
progress sends the same bit. -/
structure Engine.DataUnread (d : Byte) (e : Engine) : Prop where
  notWrbyte : e.op ≠ .wrbyte
  slot : e.phase = .wL ∨ e.phase = .wH → slotBit d e.bitIdx = slotBit e.data e.bitIdx

section
variable {d : Byte} {e : Engine} {x lv : Bool} {T : TimingSet} {cfg : Config}

/-- An engine in no write slot reads nothing of the latch. -/
theorem Engine.DataUnread.of_phase (hop : e.op ≠ .wrbyte) (hL : e.phase ≠ .wL) (hH : e.phase ≠ .wH) :
    e.DataUnread d :=
  ⟨hop, fun hP => (hP.elim hL hH).elim⟩

theorem Engine.nextSlot_eq (hop : e.op ≠ .wrbyte) :
    e.nextSlot T = ({ e with bitIdx := nextIdx e.bitIdx } : Engine).enter .rL false T :=
  (e.nextSlot_cases T).elim (fun h => absurd h.1 hop) And.right

theorem Engine.slotEnd_withData (hop : e.op ≠ .wrbyte) :
    (e.withData d).slotEnd x T = (e.slotEnd x T).withData d := by
  have hnext {e : Engine} (hop : e.op ≠ .wrbyte) : (e.withData d).nextSlot T = (e.nextSlot T).withData d := by
    rw [Engine.nextSlot_eq hop, Engine.nextSlot_eq (e := e.withData d) hop]
    rfl
  rw [Engine.slotEnd, Engine.slotEnd, apply_ite (Engine.withData d), ← hnext (by simpa using hop)]
  rfl

/-- A slot's end outside WRBYTE leaves no write slot in progress. -/
theorem Engine.DataUnread.slotEnd (hop : e.op ≠ .wrbyte) : (e.slotEnd x T).DataUnread d := by
  rcases e.slotEnd_cases x T with ⟨-, -, h⟩ | ⟨-, h⟩ <;> rw [h]
  · rw [Engine.nextSlot_eq (by simpa using hop)]
    exact .of_phase (by simpa using hop) nofun nofun
  · exact .of_phase (by simpa using hop) nofun nofun

/-- The end of a phase reads the latch in write slots only (R97). -/
theorem Engine.DataUnread.phaseEnd_withData (h : e.DataUnread d) :
    (e.withData d).phaseEnd lv T = (e.phaseEnd lv T).withData d := by
  have hphase : (e.withData d).phase = e.phase := rfl
  cases hP : e.phase <;> simp only [Engine.phaseEnd, hphase, hP]
  case wL =>
    rw [show slotBit (e.withData d).data (e.withData d).bitIdx = _ from h.slot (.inl hP)]
    rfl
  case wH =>
    rw [show slotBit (e.withData d).data (e.withData d).bitIdx = _ from h.slot (.inr hP)]
    exact Engine.slotEnd_withData h.notWrbyte
  case rT => exact Engine.slotEnd_withData h.notWrbyte
  all_goals rfl

theorem Engine.DataUnread.phaseEnd (h : e.DataUnread d) : (e.phaseEnd lv T).DataUnread d := by
  have hop := h.notWrbyte
  cases hP : e.phase <;> simp only [Engine.phaseEnd, hP]
  case idle => exact h
  case wL => exact ⟨hop, fun _ => h.slot (.inl hP)⟩
  case wH => exact .slotEnd hop
  case rT => exact .slotEnd hop
  all_goals exact .of_phase hop nofun nofun

theorem Engine.DataUnread.advance_withData (h : e.DataUnread d) :
    (e.withData d).advance cfg lv = (e.advance cfg lv).withData d := by
  rcases e.advance_cases cfg lv with ⟨hp, ha⟩ | ⟨hp, hu, ha⟩ | ⟨hp, hu, ha⟩ <;> rw [ha]
  · exact if_pos hp
  · exact (if_neg hp.not_gt).trans (if_pos hu)
  · have hrest : ({ e with pre := 0 } : Engine).DataUnread d := ⟨h.notWrbyte, h.slot⟩
    exact (if_neg hp.not_gt).trans ((if_neg hu.not_gt).trans hrest.phaseEnd_withData)

theorem Engine.DataUnread.advance (h : e.DataUnread d) : (e.advance cfg lv).DataUnread d := by
  rcases e.advance_cases cfg lv with ⟨-, ha⟩ | ⟨-, -, ha⟩ | ⟨-, -, ha⟩ <;> rw [ha]
  · exact ⟨h.notWrbyte, h.slot⟩
  · exact ⟨h.notWrbyte, h.slot⟩
  · have hrest : ({ e with pre := 0 } : Engine).DataUnread d := ⟨h.notWrbyte, h.slot⟩
    exact hrest.phaseEnd

end

/-! ### The machine -/

/-- The state with another byte in the hidden latch of DATA. -/
def State.withData (d : Byte) (s : State) : State := { s with data := d }

/-- Two states are equal, or differ in a latch of DATA that the command in progress does not read any more. -/
inductive State.SameButData (s : State) : State → Prop where
  | same : SameButData s s
  | data (d : Byte) (unread : s.toEngine.DataUnread d) : SameButData s (s.withData d)

/-- States that agree but in the latch agree with it forgotten. -/
theorem State.SameButData.forgetData_eq {s s' : State} (h : s.SameButData s') :
    forgetData (.next s) = forgetData (.next s') := by
  cases h <;> rfl

theorem exec_crcclr_idle {d : Byte} {c : Bool} {s : State} (h : s.busy = false) :
    exec (.crcclr d c) s = .next s.clearCrc := by
  simp [exec, execCrcclr, h]

/-- A command presented to states that differ in the latch: acceptance overwrites it (R99). -/
theorem exec_withData (i : Instr) {d : Byte} {s : State} (h : s.toEngine.DataUnread d) :
    ∃ t t', exec i s = .next t ∧ exec i (s.withData d) = .next t' ∧ t.SameButData t' := by
  cases hb : s.busy with
  | true =>
    exact ⟨_, _, exec_busy i hb, exec_busy (s := s.withData d) i hb, .data d h⟩
  | false =>
    cases i with
    | crcclr data crcen =>
      exact ⟨_, _, exec_crcclr_idle hb, exec_crcclr_idle (s := s.withData d) hb, .data d ⟨h.notWrbyte, h.slot⟩⟩
    | _ => exact ⟨_, _, startCommand_idle hb, startCommand_idle (s := s.withData d) hb, .same⟩

theorem command_withData (v : Word) {d : Byte} {s : State} (h : s.toEngine.DataUnread d) :
    ∃ t t', command v s = .next t ∧ command v (s.withData d) = .next t' ∧ t.SameButData t' := by
  cases hb : s.busy with
  | true => exact ⟨_, _, command_busy v hb, command_busy (s := s.withData d) v hb, .data d h⟩
  | false =>
    cases hd : decode v with
    | error e =>
      exact ⟨_, _, command_idle_error hb hd, command_idle_error (s := s.withData d) hb hd, .data d h⟩
    | ok i =>
      rw [command_idle_ok hb hd, command_idle_ok (s := s.withData d) hb hd]
      exact exec_withData i h

theorem hostAccess_withData (acc : Access) {d : Byte} {s : State} (h : s.toEngine.DataUnread d) :
    ∃ t t', hostAccess acc s = .next t ∧ hostAccess acc (s.withData d) = .next t' ∧ t.SameButData t' := by
  match acc with
  | .none | .read _ => exact ⟨_, _, rfl, rfl, .data d h⟩
  | .write 0 v => exact command_withData v h
  | .write 1 _ | .write 4 _ => exact ⟨_, _, rfl, rfl, .data d h⟩
  | .write 2 _ | .write 3 _ | .write 5 _ | .write 6 _ | .write 7 _ => exact ⟨_, _, rfl, rfl, .data d h⟩

theorem State.SameButData.advance {s s' : State} (h : s.SameButData s') (lv : Bool) :
    (s.advance lv).SameButData (s'.advance lv) := by
  cases h with
  | same => exact .same
  | data d h =>
    have hadvance : (s.withData d).advance lv = (s.advance lv).withData d :=
      congrArg (fun e => { s with toEngine := e }) h.advance_withData
    rw [hadvance]
    exact .data d h.advance

/-- One edge keeps the agreement, whatever the inputs (R90). -/
theorem edge_withData (rst : Bool) (acc : Access) (slv : Bool) {d : Byte} {s : State} (h : s.toEngine.DataUnread d) :
    ∃ t t', edge rst acc slv s = .next t ∧ edge rst acc slv (s.withData d) = .next t' ∧ t.SameButData t' := by
  cases rst with
  | true => exact ⟨_, _, edge_reset acc slv s, edge_reset acc slv (s.withData d), .same⟩
  | false =>
    obtain ⟨u, u', hu, hu', hsame⟩ := hostAccess_withData acc (s := s.shiftSync (s.line false slv)) h
    cases hb : s.busy with
    | false =>
      exact ⟨u, u', (edge_idle hb).trans hu, (edge_idle (s := s.withData d) hb).trans hu', hsame⟩
    | true =>
      obtain ⟨w, hw, he⟩ := edge_busy_advance acc slv hb
      obtain ⟨w', hw', he'⟩ := edge_busy_advance acc slv (s := s.withData d) hb
      cases hu.symm.trans hw
      cases hu'.symm.trans hw'
      exact ⟨_, _, he, he', hsame.advance _⟩

theorem step_of_illegalConfig {s : State} (hc : configLegal s.cfg = false) : step s = .refused .illegalConfig := by
  simp [step, clockEdge, hc]

theorem step_of_refusedAccess {s : State} {r : Refusal} (hc : configLegal s.cfg = true) (ha : s.access = .error r) :
    step s = .refused r := by
  simp [step, clockEdge, hc, ha]

/-- One step keeps the agreement, or is refused for the same reason: parameters and host moves are the same. -/
theorem State.SameButData.step {s s' : State} (h : s.SameButData s') :
    (∃ t t', step s = .next t ∧ step s' = .next t' ∧ t.SameButData t') ∨
    (∃ r, step s = .refused r ∧ step s' = .refused r) := by
  cases h with
  | same =>
    rcases step_cases s with ⟨-, hs⟩ | ⟨r, -, -, hs⟩ | ⟨acc, -, -, hs⟩
    · exact .inr ⟨_, hs, hs⟩
    · exact .inr ⟨r, hs, hs⟩
    · obtain ⟨t, ht, -⟩ := edge_next s.rstNow acc s.slvNow s.passCycle
      exact .inl ⟨t, t, hs.trans ht, hs.trans ht, .same⟩
  | data d h =>
    rcases step_cases s with ⟨hc, hs⟩ | ⟨r, hc, ha, hs⟩ | ⟨acc, hc, ha, hs⟩
    · exact .inr ⟨_, hs, step_of_illegalConfig (s := s.withData d) hc⟩
    · exact .inr ⟨r, hs, step_of_refusedAccess (s := s.withData d) hc ha⟩
    · left
      rw [hs, step_of_access (s := s.withData d) hc ha]
      exact edge_withData s.rstNow acc s.slvNow (s := s.passCycle) h

/-! ### Runs -/

theorem run_succ_of_next {s t : State} (h : step s = .next t) (n : Nat) :
    Sys2Proof.core.run (n + 1) s = Sys2Proof.core.run n t := by
  simp only [Host.Core.run, show Sys2Proof.core.step s = Host.Outcome.next t from h]

theorem run_succ_of_refused {s : State} {r : Refusal} (h : step s = .refused r) (n : Nat) :
    Sys2Proof.core.run (n + 1) s = .refused r := by
  simp only [Host.Core.run, show Sys2Proof.core.step s = Host.Outcome.refused r from h]

/-- Runs from states that agree but in the latch agree so at every edge. -/
theorem State.SameButData.run {s s' : State} (h : s.SameButData s') (n : Nat) :
    forgetData (Sys2Proof.core.run n s) = forgetData (Sys2Proof.core.run n s') := by
  induction n generalizing s s' with
  | zero => exact h.forgetData_eq
  | succ n ih =>
    rcases h.step with ⟨t, t', hs, hs', hsame⟩ | ⟨r, hs, hs'⟩
    · rw [run_succ_of_next hs, run_succ_of_next hs']
      exact ih hsame
    · rw [run_succ_of_refused hs, run_succ_of_refused hs']

end Sys2Proof.Machine
end

section
/-! SUPPORT. The ignored bits of spec/30_encoding.md R77: a command and its canonical form start alike, and two words
that differ in ignored bits only have one canonical form. -/

namespace Sys2Proof

/-! ### The canonical form of a word -/

/-- The bits of a word that the command with this OP does not ignore (R77). -/
def keptBits : BitVec 4 → Word
  | 1 => 0xFFFF00EF
  | 2 => 0xFFFF01FF
  | 3 => 0xFFFF00FF
  | 4 => 0xFFFFFFFF
  | 5 => 0xFFFF00FF
  | _ => 0xFFFF00EF

/-- Dropping a command's ignored operands is clearing the ignored bits of its word (R77, R79). -/
theorem encode_canon (i : Instr) : encode i.canon = encode i &&& keptBits i.op := by
  rcases i with ⟨d, c⟩ | ⟨d, c⟩ | ⟨d, c⟩ | ⟨d, c⟩ | ⟨d, c⟩ | ⟨d, c⟩ <;> revert d c <;> decide

/-- OP is ignored by no command. -/
theorem opField_and_keptBits (v : Word) (op : BitVec 4) : opField (v &&& keptBits op) = opField v := by
  have hmask : opField (keptBits op) = BitVec.allOnes 4 := by revert op; decide
  have hand : opField (v &&& keptBits op) = opField v &&& opField (keptBits op) := BitVec.extractLsb'_and
  rw [hand, hmask, BitVec.and_allOnes]

theorem decode_op {v : Word} {i : Instr} (h : decode v = .ok i) : i.op = opField v :=
  BitVec.eq_of_toNat_eq (by rw [opField_toNat, (Machine.decode_ok h).2])

theorem and_eq_and_of_xor_and_eq_zero {v v' m : Word} (h : (v ^^^ v') &&& m = 0) : v &&& m = v' &&& m := by
  have hdistrib : (v ^^^ v') &&& m = (v &&& m) ^^^ (v' &&& m) := by
    ext k hk
    simp [Bool.and_xor_distrib_right]
  exact BitVec.xor_eq_zero_iff.1 (hdistrib.symm.trans h)

/-- Two legal words that differ in ignored bits only have one canonical form. -/
theorem canon_eq_of_kept_eq {v v' : Word} {i i' : Instr} (h : decode v = .ok i) (h' : decode v' = .ok i')
    (hkept : v &&& keptBits i.op = v' &&& keptBits i.op) : i.canon = i'.canon := by
  have hop : i.op = i'.op := by
    rw [decode_op h, decode_op h', ← opField_and_keptBits v i.op, hkept, opField_and_keptBits]
  apply encode_injective
  rw [encode_canon, encode_canon, encode_of_decode h, encode_of_decode h', ← hop, hkept]

namespace Machine

/-! ### The canonical command starts alike -/

/-- WRBIT sends DATA bit 0, which its canonical form keeps (R73, R77). -/
theorem firstBit_and_one (d : Byte) : firstBit (d &&& 1) = firstBit d := by
  simp [firstBit]

/-- Outside WRBYTE, acceptance with another DATA byte gives the same state but for the latch, provided a write slot
sends the same bit. -/
theorem State.accept_sameButData {op : Op} {c b : Bool} {d d' : Byte} {P : Phase} {s : State} (hop : op ≠ .wrbyte)
    (hbit : P = .wL ∨ P = .wH → slotBit d' 0 = slotBit d 0) :
    (s.accept op c d P b).SameButData (s.accept op c d' P b) :=
  .data d' ⟨hop, hbit⟩

/-- A command and its canonical form, presented to one state, lead to one state but for the latch (R77, R99). -/
theorem exec_canon {i : Instr} {s t : State} (h : exec i s = .next t) :
    ∃ u, exec i.canon s = .next u ∧ t.SameButData u := by
  cases hb : s.busy with
  | true =>
    cases (exec_busy i hb).symm.trans h
    exact ⟨_, exec_busy i.canon hb, .same⟩
  | false =>
    cases i with
    | wrbyte d c => exact ⟨t, h, .same⟩
    | crcclr d c => exact ⟨t, h, .same⟩
    | wrbit d c =>
      cases (startCommand_idle hb).symm.trans h
      refine ⟨_, startCommand_idle hb, ?_⟩
      rw [firstBit_and_one]
      exact State.accept_sameButData nofun fun _ => firstBit_and_one d
    | _ =>
      cases (startCommand_idle hb).symm.trans h
      exact ⟨_, startCommand_idle hb, State.accept_sameButData nofun nofun⟩

/-- Settles O5: both words have one canonical command, and each word's run agrees with the run of that command. -/
theorem ignoredBitsNeverChangeTheCommand : Obligations.IgnoredBitsNeverChangeTheCommand := by
  intro v v' i i' s t t' hd hd' hmask ht ht' n
  have hkept : (v ^^^ v') &&& keptBits i.op = 0 := by
    rw [(decode_ok hd).2] at hmask
    cases i <;> exact hmask
  have hcanon : i.canon = i'.canon := canon_eq_of_kept_eq hd hd' (and_eq_and_of_xor_and_eq_zero hkept)
  obtain ⟨u, hu, hsame⟩ := exec_canon ht
  obtain ⟨u', hu', hsame'⟩ := exec_canon ht'
  rw [hcanon] at hu
  cases hu.symm.trans hu'
  exact (hsame.run n).trans (hsame'.run n).symm

end Machine

end Sys2Proof
end

section
/-! SUPPORT. Runs: what a run leaves of the inputs of the coming edges, and the states from which a run without reset goes
on for a number of edges. -/

namespace Sys2Proof.Machine

/-! ### The inputs along a run -/

/-- Every step keeps the parameters and uses up one edge's inputs. -/
theorem step_inputs {s t : State} (h : step s = .next t) :
    t.cfg = s.cfg ∧ (∀ m, t.rstAt m = s.rstAt (m + 1)) ∧ ∀ m, t.slvAt m = s.slvAt (m + 1) := by
  obtain ⟨acc, -, -, he⟩ := step_next_cases h
  obtain ⟨u, hu, hsur, hcfg⟩ := edge_next s.rstNow acc s.slvNow s.passCycle
  cases he.symm.trans hu
  obtain ⟨hrst, hslv⟩ := State.inputs_congr hsur
  exact ⟨hcfg, fun m => by rw [hrst, State.rstAt_passCycle], fun m => by rw [hslv, State.slvAt_passCycle]⟩

theorem State.after_one {s t : State} : s.After 1 t ↔ step s = .next t := by
  simp [State.after_succ, State.after_zero]

section
variable {m n : Nat} {s t u : State}

/-- A run keeps the parameters and uses up as many inputs as it has edges. -/
theorem State.After.inputs (h : s.After n t) :
    t.cfg = s.cfg ∧ (∀ m, t.rstAt m = s.rstAt (n + m)) ∧ ∀ m, t.slvAt m = s.slvAt (n + m) := by
  induction n generalizing s with
  | zero => cases State.after_zero.1 h; simp
  | succ n ih =>
    obtain ⟨u, hu, h⟩ := State.after_succ.1 h
    obtain ⟨hcfg, hrst, hslv⟩ := step_inputs hu
    obtain ⟨hcfg', hrst', hslv'⟩ := ih h
    refine ⟨hcfg'.trans hcfg, fun m => ?_, fun m => ?_⟩
    · rw [hrst', hrst, Nat.add_right_comm]
    · rw [hslv', hslv, Nat.add_right_comm]

theorem State.After.cfg_eq (h : s.After n t) : t.cfg = s.cfg := h.inputs.1

theorem State.After.slvAt_eq (h : s.After n t) (m : Nat) : t.slvAt m = s.slvAt (n + m) := h.inputs.2.2 m

theorem State.After.trans (h : s.After m t) (h' : t.After n u) : s.After (m + n) u :=
  State.after_add.2 ⟨t, h, h'⟩

/-- A run is the run of its first edges and then the run of the others. -/
theorem State.After.rest (h : s.After m t) (h' : s.After (m + n) u) : t.After n u := by
  obtain ⟨w, hw, h'⟩ := State.after_add.1 h'
  cases State.after_unique h hw
  exact h'

theorem State.NoReset.after (h : s.NoReset (m + n)) (ht : s.After m t) : t.NoReset n := fun j hj => by
  rw [ht.inputs.2.1]
  exact h _ (Nat.add_lt_add_left hj m)

theorem State.NoReset.mono (h : s.NoReset n) (hm : m ≤ n) : s.NoReset m := fun j hj => h j (hj.trans_le hm)

/-- A host whose moves all have an access goes on so along a run. -/
theorem State.After.hostOk (h : s.After n t) (hc : configLegal s.cfg = true) (hh : s.hostOk = true) :
    t.hostOk = true := by
  refine (State.after_keeps (P := fun s => configLegal s.cfg = true ∧ s.hostOk = true) ?_ ⟨hc, hh⟩ h).2
  rintro s t ⟨hc, hh⟩ hst
  obtain ⟨u, hu, hcfg, hok, -⟩ := step_goes_on hc hh
  cases hst.symm.trans hu
  exact ⟨hcfg ▸ hc, hok⟩

/-! ### States that run on -/

/-- A state of the invariant from which a run goes on without reset for `n` edges. -/
structure State.Ready (n : Nat) (s : State) : Prop where
  inv : s.Inv
  host : s.hostOk = true
  noReset : s.NoReset n

theorem State.Starts.ready {i : Instr} (h : s.Starts i n) : s.Ready n := ⟨h.inv, h.host, h.noReset⟩

theorem State.Ready.after (h : s.Ready (m + n)) (ht : s.After m t) : t.Ready n :=
  ⟨State.after_keeps everyStepKeepsTheInvariant h.inv ht, ht.hostOk h.inv.1 h.host, h.noReset.after ht⟩

theorem State.Ready.mono (h : s.Ready n) (hm : m ≤ n) : s.Ready m := ⟨h.inv, h.host, h.noReset.mono hm⟩

end

end Sys2Proof.Machine
end

section
/-! SUPPORT. The synchroniser as a delay line (spec/40_timing_engine.md R92): without reset the level the engine sees is
the line as many edges earlier as there are stages. -/

namespace Sys2Proof.Machine

variable {s t : State} {n : Nat}

/-- Every step without reset shifts the line into the stages, whatever else it does (R90). -/
theorem step_sync (h : step s = .next t) (hr : s.rstAt 0 = false) :
    t.sync = (s.line false s.slvNow :: s.sync).take s.sync.length := by
  obtain ⟨acc, -, ⟨hreset, -⟩ | ⟨-, -, hu⟩ | ⟨-, -, u, lv, hu, rfl⟩⟩ := step_effect h
  · rw [State.rstNow_eq, hr] at hreset
    cases hreset
  · exact hu.sync_eq
  · exact hu.sync_eq

/-- A level moves one stage further at each edge (R90). -/
theorem State.After.sync_moves (h : s.After n t) (hr : s.NoReset n) :
    t.sync.length = s.sync.length ∧ ∀ j, n + j < s.sync.length → t.sync[n + j]? = s.sync[j]? := by
  induction n generalizing s with
  | zero => cases State.after_zero.1 h; simp
  | succ n ih =>
    obtain ⟨u, hu, h⟩ := State.after_succ.1 h
    have hsync := step_sync hu (hr 0 n.succ_pos)
    have hlen : u.sync.length = s.sync.length := by simp [hsync]
    obtain ⟨hlen', hmoves⟩ := ih h ((Nat.add_comm n 1 ▸ hr).after (State.after_one.2 hu))
    refine ⟨hlen'.trans hlen, fun j hj => ?_⟩
    rw [Nat.add_assoc, Nat.add_comm 1 j, hmoves (j + 1) (by omega), hsync, List.getElem?_take_of_lt (by omega),
      List.getElem?_cons_succ]

/-- The level the engine sees, with at least one stage, is the last stage's (R92). -/
theorem State.seen_eq_of_stage {lv : Bool} (h : s.sync[s.sync.length - 1]? = some lv) (ln : Bool) : s.seen ln = lv :=
  State.seen_last (List.getLast?_eq_getElem?.trans h) ln

/-- The level the engine sees at an edge is the line as many edges earlier as there are stages (R92). -/
theorem State.After.seen_eq_line (h : s.After s.sync.length t) (hr : s.NoReset s.sync.length) :
    t.seen (t.line false t.slvNow) = s.line false s.slvNow := by
  generalize hn : s.sync.length = n at h hr
  cases n with
  | zero =>
    cases State.after_zero.1 h
    exact State.seen_nil (List.length_eq_zero_iff.1 hn) _
  | succ n =>
    obtain ⟨u, hu, h⟩ := State.after_succ.1 h
    have hsync := step_sync hu (hr 0 n.succ_pos)
    obtain ⟨hlen, hmoves⟩ := h.sync_moves ((Nat.add_comm n 1 ▸ hr).after (State.after_one.2 hu))
    have hfirst : t.sync[n]? = some (s.line false s.slvNow) := by
      rw [← Nat.add_zero n, hmoves 0 (by simp [hsync, hn]), hsync, hn]
      rfl
    apply State.seen_eq_of_stage
    rwa [hlen, show u.sync.length - 1 = n by simp [hsync, hn]]

/-- Settles O32: before `SYNC` edges the last stage holds a reset value that has moved there, and later a level of the
line that has moved through all stages. -/
theorem synchroniserDelaysTheLine : Obligations.SynchroniserDelaysTheLine := by
  intro s t n _ hstages hr h
  have hlen : s.sync.length = s.cfg.syncStages := by simp [hstages]
  refine ⟨fun hn => ?_, fun u hn hu => ?_⟩
  · obtain ⟨hlen', hmoves⟩ := h.sync_moves (hr.mono n.le_succ)
    apply State.seen_eq_of_stage
    obtain ⟨j, hj⟩ := Nat.exists_eq_add_of_lt hn
    rw [hlen', hlen, hj, Nat.add_sub_cancel, hmoves j (by omega), hstages, List.getElem?_replicate_of_lt (by omega)]
  · obtain ⟨m, rfl⟩ := Nat.exists_eq_add_of_le' hn
    rw [Nat.add_sub_cancel] at hu
    have hlen' : u.sync.length = s.cfg.syncStages :=
      (hu.sync_moves (hr.mono (by omega))).1.trans hlen
    rw [← hlen'] at h hr
    exact (hu.rest h).seen_eq_line ((hr.mono (Nat.le_succ _)).after hu)

end Sys2Proof.Machine
end

section
/-! SUPPORT. The slot timer over a whole phase (spec/40_timing_engine.md R93, R100): the engine at each cycle of a phase,
and at the edge that ends it. -/

namespace Sys2Proof.Machine

/-! ### The engine within a phase -/

/-- The engine `n` cycles after it entered a phase: only the slot timer has moved (R93, R100). -/
def Engine.atCycle (k n : Nat) (e : Engine) : Engine := { e with pre := n % k, us := e.us - n / k }

@[simp] theorem Engine.atCycle_ppd (k n : Nat) (e : Engine) : (e.atCycle k n).ppd = e.ppd := rfl
@[simp] theorem Engine.atCycle_rdata (k n : Nat) (e : Engine) : (e.atCycle k n).rdata = e.rdata := rfl
@[simp] theorem Engine.atCycle_crc (k n : Nat) (e : Engine) : (e.atCycle k n).crc = e.crc := rfl
@[simp] theorem Engine.atCycle_phase (k n : Nat) (e : Engine) : (e.atCycle k n).phase = e.phase := rfl
@[simp] theorem Engine.atCycle_spd (k n : Nat) (e : Engine) : (e.atCycle k n).spd = e.spd := rfl
@[simp] theorem Engine.atCycle_drive (k n : Nat) (e : Engine) : (e.atCycle k n).drive = e.drive := rfl
@[simp] theorem Engine.atCycle_busy (k n : Nat) (e : Engine) : (e.atCycle k n).busy = e.busy := rfl

theorem Engine.atCycle_zero {k : Nat} {e : Engine} (hpre : e.pre = 0) : e.atCycle k 0 = e := by
  rw [Engine.atCycle, Nat.zero_mod, Nat.zero_div, Nat.sub_zero, ← hpre]

/-- The next cycle's place in its microsecond: the microsecond goes on, or the next one begins. -/
theorem succ_div_mod {k : Nat} (hk : 1 ≤ k) (n : Nat) :
    (n % k < k - 1 ∧ (n + 1) % k = n % k + 1 ∧ (n + 1) / k = n / k) ∨
    (k - 1 ≤ n % k ∧ (n + 1) % k = 0 ∧ (n + 1) / k = n / k + 1) := by
  have hdm := Nat.div_add_mod n k
  have hlt := Nat.mod_lt n hk
  by_cases h : n % k < k - 1
  · have hdiv := Nat.div_mod_unique (a := n + 1) (c := n % k + 1) (d := n / k) hk
    exact .inl ⟨h, (hdiv.2 ⟨by omega, by omega⟩).2, (hdiv.2 ⟨by omega, by omega⟩).1⟩
  · have hdiv := Nat.div_mod_unique (a := n + 1) (c := 0) (d := n / k + 1) hk
    have hnext : 0 + k * (n / k + 1) = n + 1 := by rw [Nat.mul_succ]; omega
    exact .inr ⟨by omega, (hdiv.2 ⟨hnext, hk⟩).2, (hdiv.2 ⟨hnext, hk⟩).1⟩

section
variable {cfg : Config} {e : Engine} {n : Nat}

/-- Within a phase an edge counts a cycle (R93). -/
theorem Engine.advance_atCycle (lv : Bool) (hk : 1 ≤ cfg.k) (hn : n + 1 < e.us * cfg.k) :
    (e.atCycle cfg.k n).advance cfg lv = e.atCycle cfg.k (n + 1) := by
  have hus : (n + 1) / cfg.k < e.us := (Nat.div_lt_iff_lt_mul hk).2 hn
  rcases succ_div_mod hk n with ⟨hp, hmod, hdiv⟩ | ⟨hp, hmod, hdiv⟩
  · refine (if_pos hp).trans ?_
    simp only [Engine.atCycle, hmod, hdiv]
  · have hlast : 1 < e.us - n / cfg.k := by omega
    refine ((if_neg hp.not_gt).trans (if_pos hlast)).trans ?_
    simp only [Engine.atCycle, hmod, hdiv, Nat.sub_add_eq]

/-- The slot timer is set anew at a phase's end, whatever it was (R96, R98). -/
theorem Engine.phaseEnd_timer (hb : e.busy = true) (p u : Nat) (lv : Bool) (T : TimingSet) :
    ({ e with pre := p, us := u } : Engine).phaseEnd lv T = e.phaseEnd lv T := by
  have hslot (x : Bool) : ({ e with pre := p, us := u } : Engine).slotEnd x T = e.slotEnd x T := by
    unfold Engine.slotEnd
    rfl
  cases hP : e.phase <;> simp only [Engine.phaseEnd, hP]
  case idle => simp [hP] at hb
  case wH => exact hslot _
  case rT => exact hslot _
  all_goals rfl

/-- The last edge of a phase ends it (R93). -/
theorem Engine.advance_lastCycle (lv : Bool) (hk : 1 ≤ cfg.k) (hb : e.busy = true) (hn : n + 1 = e.us * cfg.k) :
    (e.atCycle cfg.k n).advance cfg lv = e.phaseEnd lv (timing cfg e.spd) := by
  have hdm : (n + 1) / cfg.k = e.us ∧ (n + 1) % cfg.k = 0 := by
    rw [hn]
    exact ⟨Nat.mul_div_cancel _ hk, Nat.mul_mod_left _ _⟩
  rcases succ_div_mod hk n with ⟨-, hmod, -⟩ | ⟨hp, -, hdiv⟩
  · omega
  · have hlast : ¬ 1 < e.us - n / cfg.k := by omega
    exact ((if_neg hp.not_gt).trans (if_neg hlast)).trans (Engine.phaseEnd_timer hb _ _ _ _)

/-- A slot's end leads to the low phase of the next slot, or to no phase (R97). -/
theorem Engine.slotEnd_phase (x : Bool) (T : TimingSet) (e : Engine) :
    (e.slotEnd x T).phase = .wL ∨ (e.slotEnd x T).phase = .rL ∨ (e.slotEnd x T).phase = .idle := by
  rcases e.slotEnd_cases x T with ⟨-, -, h⟩ | ⟨-, h⟩ <;> rw [h]
  · rcases ((e.feedCrc x).feedShift x).nextSlot_cases T with ⟨-, h'⟩ | ⟨-, h'⟩ <;> rw [h']
    · exact .inl rfl
    · exact .inr (.inl rfl)
  · exact .inr (.inr rfl)

/-- A phase's end leaves the phase (R97). -/
theorem Engine.phaseEnd_phase_ne (hb : e.busy = true) (lv : Bool) (T : TimingSet) :
    (e.phaseEnd lv T).phase ≠ e.phase := by
  cases hP : e.phase <;> simp only [Engine.phaseEnd, hP]
  case idle => simp [hP] at hb
  case wH => rcases e.slotEnd_phase (slotBit e.data e.bitIdx) T with h | h | h <;> rw [h] <;> nofun
  case rT => rcases e.slotEnd_phase e.smp T with h | h | h <;> rw [h] <;> nofun
  all_goals exact nofun

end

/-! ### A phase of a running block -/

section
variable {s : State} {n : Nat}

/-- A step of a running block advances its engine on the level seen at that edge (R90). -/
theorem State.Ready.advances (h : s.Ready 1) (hb : s.busy = true) :
    ∃ t, s.After 1 t ∧ t.toEngine = s.toEngine.advance s.cfg (s.seen (s.line false s.slvNow)) := by
  obtain ⟨t, ht, he, -⟩ := step_busy h.inv.1 h.host hb (h.noReset 0 Nat.one_pos)
  rw [← State.slvNow_eq] at he
  exact ⟨t, State.after_one.2 ht, he⟩

theorem State.Inv.one_le_k (h : s.Inv) : 1 ≤ s.cfg.k := ((configLegal_iff s.cfg).1 h.1).1

theorem State.Inv.one_le_us (h : s.Inv) (hb : s.busy = true) : 1 ≤ s.us :=
  ((s.inv_iff.1 h).2.2.2.busy (s.toEngine.busy_eq_true.1 hb)).2.1

/-- Within a phase the block stays in it, whatever the host and the line do (R100). -/
theorem State.Ready.within_phase (h : s.Ready n) (hb : s.busy = true) (hpre : s.pre = 0) (hn : n < s.us * s.cfg.k) :
    ∃ t, s.After n t ∧ t.toEngine = s.toEngine.atCycle s.cfg.k n := by
  induction n with
  | zero => exact ⟨s, State.after_zero.2 rfl, (Engine.atCycle_zero hpre).symm⟩
  | succ n ih =>
    obtain ⟨t, ht, he⟩ := ih (h.mono n.le_succ) (by omega)
    obtain ⟨u, hu, hadv⟩ := (h.after ht).advances (by rw [State.busy_def, he]; exact hb)
    refine ⟨u, ht.trans hu, ?_⟩
    rw [hadv, ht.cfg_eq, he, Engine.advance_atCycle _ h.inv.one_le_k hn]

/-- A phase of `us` microseconds ends after `us*K` edges. Where the master has released the line for more than `SYNC`
cycles, the level seen at that edge is the slaves' alone, `SYNC` edges earlier (R92, R100, R101). -/
theorem State.Ready.phase_ends (h : s.Ready (s.us * s.cfg.k)) (hb : s.busy = true) (hpre : s.pre = 0) :
    ∃ t lv, s.After (s.us * s.cfg.k) t ∧ t.toEngine = s.toEngine.phaseEnd lv (timing s.cfg s.spd) ∧
      (s.drive = false → s.cfg.syncStages < s.us * s.cfg.k →
        lv = !s.slvAt (s.us * s.cfg.k - 1 - s.cfg.syncStages)) := by
  have hk := h.inv.one_le_k
  obtain ⟨n, hn⟩ : ∃ n, s.us * s.cfg.k = n + 1 := Nat.exists_eq_add_of_le' (Nat.mul_le_mul (h.inv.one_le_us hb) hk)
  rw [hn] at h ⊢
  obtain ⟨t, ht, he⟩ := (h.mono n.le_succ).within_phase hb hpre (by omega)
  obtain ⟨u, hu, hadv⟩ := (h.after ht).advances (by rw [State.busy_def, he]; exact hb)
  refine ⟨u, t.seen (t.line false t.slvNow), ht.trans hu, ?_, fun hdrive hsync => ?_⟩
  · rw [hadv, ht.cfg_eq, he, Engine.advance_lastCycle _ hk hb hn.symm]
  · obtain ⟨m, rfl⟩ := Nat.exists_eq_add_of_le' (Nat.le_of_lt_succ hsync)
    obtain ⟨w, hw, hew⟩ := (h.mono (by omega)).within_phase (n := m) hb hpre (by omega)
    have hwr : w.Ready s.cfg.syncStages := (h.mono (by omega)).after hw
    have hstages : s.cfg.syncStages = w.sync.length := by rw [← hw.cfg_eq, hwr.inv.2.2.2.1]
    have hdrivew : w.drive = false := by rw [hew]; exact hdrive
    have hseen := (hstages ▸ hw.rest ht).seen_eq_line (hstages ▸ hwr.noReset)
    rw [hseen, State.line_released hdrivew, State.slvNow_eq, hw.slvAt_eq]
    simp

/-- Settles O35: within the phase only the slot timer moves, and its last edge leaves the phase. -/
theorem phaseLastsExactly : Obligations.PhaseLastsExactly := by
  rintro s d hinv hb hhost hpre rfl hr
  have h : s.Ready (s.us * s.cfg.k) := ⟨hinv, hhost, hr⟩
  have hdrive : s.drive = drv s.phase := by
    obtain ⟨-, -, -, he⟩ := s.inv_iff.1 hinv
    exact (he.busy (s.toEngine.busy_eq_true.1 hb)).2.2.2.2.2
  constructor
  · intro n hn
    obtain ⟨t, ht, he⟩ := (h.mono hn.le).within_phase hb hpre hn
    refine ⟨t, ht, ?_⟩
    rw [he, ← hdrive]
    exact ⟨rfl, rfl, rfl, rfl⟩
  · obtain ⟨t, lv, ht, he, -⟩ := h.phase_ends hb hpre
    refine ⟨t, ht, ?_⟩
    rw [he]
    exact Engine.phaseEnd_phase_ne hb lv _

end

end Sys2Proof.Machine
end

section
/-! SUPPORT. The timelines of the bit-level commands (spec/40_timing_engine.md R104, R107, R109), phase by phase from the
acceptance edge. -/

namespace Sys2Proof.Machine

/-! ### A command's phases -/

/-- The engine of cycle `a` of a command presented in `s`. -/
def State.Enters (s : State) (a : Nat) (e : Engine) : Prop := ∃ t, s.After (a + 1) t ∧ t.toEngine = e

section
variable {s : State} {N a b : Nat} {e : Engine}

/-- The acceptance edge enters the command's first phase (R99). -/
theorem State.Starts.enters {i : Instr} {op : Op} {c x : Bool} {d : Byte} {P : Phase} (h : s.Starts i (N + 1))
    (hexec : ∀ w : State, w.busy = false → exec i w = .next (w.accept op c d P x)) :
    s.Enters 0 ((s.toEngine.latch op c d s.speed).enter P x s.timingSet) := by
  refine ⟨_, State.after_one.2 (h.step_eq.trans (hexec _ ?_)), rfl⟩
  simpa using h.idle

/-- The engine `e` enters a phase at edge `a` that lasts until edge `b` (R100). -/
structure State.RunsPhase (s : State) (a b : Nat) (e : Engine) : Prop where
  enters : s.Enters a e
  busy : e.busy = true
  start : e.pre = 0
  length : a + e.us * s.cfg.k = b

/-- A phase holds the drive value and the results at each of its cycles (R100). -/
theorem State.RunsPhase.cycle (h : s.RunsPhase a b e) (hr : s.Ready b) {n : Nat} (ha : a ≤ n) (hb : n < b) :
    ∃ t, s.After (n + 1) t ∧ t.busy = true ∧ t.drive = e.drive ∧ t.phase = e.phase ∧ t.ppd = e.ppd ∧ t.crc = e.crc ∧
      t.rdata = e.rdata := by
  obtain ⟨⟨t, ht, rfl⟩, hbusy, hpre, hlen⟩ := h
  obtain ⟨m, rfl⟩ := Nat.exists_eq_add_of_le ha
  have hm : m < t.us * t.cfg.k := by rw [ht.cfg_eq]; omega
  obtain ⟨w, hw, he⟩ := ((hr.mono (by omega)).after ht).within_phase hbusy hpre hm
  refine ⟨w, Nat.add_right_comm a m 1 ▸ ht.trans hw, ?_⟩
  rw [State.busy_def, he]
  exact ⟨hbusy, rfl, rfl, rfl, rfl, rfl⟩

/-- A phase ends at its last edge. Where it has the line released for more than `SYNC` cycles, the level seen there is
the slaves' alone, `SYNC` edges earlier (R100, R101). -/
theorem State.RunsPhase.ends (h : s.RunsPhase a b e) (hr : s.Ready (b + 1)) :
    ∃ lv, s.Enters b (e.phaseEnd lv (timing s.cfg e.spd)) ∧
      (e.drive = false → a + s.cfg.syncStages < b → lv = !s.slvAt (b - s.cfg.syncStages)) := by
  obtain ⟨⟨t, ht, rfl⟩, hbusy, hpre, rfl⟩ := h
  have htr : t.Ready (t.us * t.cfg.k) := (hr.mono (by rw [ht.cfg_eq]; omega)).after ht
  obtain ⟨w, lv, hw, he, hlv⟩ := htr.phase_ends hbusy hpre
  rw [ht.cfg_eq] at hw he hlv
  refine ⟨lv, ⟨w, Nat.add_right_comm a _ 1 ▸ ht.trans hw, he⟩, fun hdrive hsync => ?_⟩
  rw [hlv hdrive (by omega), ht.slvAt_eq]
  congr 2
  omega

/-- Three phases in a row, the first low and the others released, that leave the results as they were: what a command
that samples shows at each of its cycles. -/
theorem State.RunsPhase.three_phases {c : Nat} {e₀ e₁ e₂ : Engine} (h₀ : s.RunsPhase 0 a e₀) (h₁ : s.RunsPhase a b e₁)
    (h₂ : s.RunsPhase b c e₂) (hr : s.Ready c) (hdrive : e₀.drive = true ∧ e₁.drive = false ∧ e₂.drive = false)
    (hres₁ : e₁.ppd = e₀.ppd ∧ e₁.crc = e₀.crc ∧ e₁.rdata = e₀.rdata)
    (hres₂ : e₂.ppd = e₀.ppd ∧ e₂.crc = e₀.crc ∧ e₂.rdata = e₀.rdata) {n : Nat} (hn : n < c) :
    ∃ t, s.After (n + 1) t ∧ t.busy = true ∧ t.drive = decide (n < a) ∧
      t.phase = (if n < a then e₀.phase else if n < b then e₁.phase else e₂.phase) ∧
      t.ppd = e₀.ppd ∧ t.crc = e₀.crc ∧ t.rdata = e₀.rdata := by
  have hab : a ≤ b := h₁.length ▸ Nat.le_add_right _ _
  have hbc : b ≤ c := h₂.length ▸ Nat.le_add_right _ _
  by_cases ha : n < a
  · obtain ⟨t, ht, hbusy, hdrv, hphase, hres⟩ := h₀.cycle (hr.mono (hab.trans hbc)) n.zero_le ha
    exact ⟨t, ht, hbusy, by simp [hdrv, hdrive, ha], by simp [hphase, ha], hres⟩
  by_cases hb : n < b
  · obtain ⟨t, ht, hbusy, hdrv, hphase, hres⟩ := h₁.cycle (hr.mono hbc) (not_lt.1 ha) hb
    exact ⟨t, ht, hbusy, by simp [hdrv, hdrive, ha], by simp [hphase, ha, hb], by simpa only [hres₁] using hres⟩
  · obtain ⟨t, ht, hbusy, hdrv, hphase, hres⟩ := h₂.cycle hr (not_lt.1 hb) hn
    exact ⟨t, ht, hbusy, by simp [hdrv, hdrive, ha], by simp [hphase, ha, hb], by simpa only [hres₂] using hres⟩

end

/-- The stages are fewer than the cycles of either sampling phase, in every mode the block has (R9). -/
theorem State.Inv.syncStages_lt {s : State} (h : s.Inv) :
    s.cfg.syncStages < s.timingSet.rS * s.cfg.k ∧ s.cfg.syncStages < s.timingSet.pds * s.cfg.k := by
  have huse : TimingInUse s.cfg s.timingSet := by
    cases hspeed : s.speed with
    | false => exact .inl (by simp [State.timingSet, timing, hspeed])
    | true => exact .inr ⟨h.2.1 hspeed, by simp [State.timingSet, timing, hspeed]⟩
  have hlegal := ((configLegal_iff s.cfg).1 h.1).2 _ huse
  simpa [timingLegal] using (Bool.and_eq_true_iff.1 hlegal).2

/-- Settles O37: three phases, the second of which ends in the presence sample, which the third publishes. -/
theorem resetTimeline : Obligations.ResetTimeline := by
  intro s d c N hN h
  have hr := h.ready
  obtain ⟨-, hsync⟩ := h.inv.syncStages_lt
  refine ⟨fun hs => by simp [hN, State.timingSet, timing, hs, tStd], ?_⟩
  simp only [Nat.add_mul] at hN ⊢
  have hL : s.RunsPhase 0 (s.timingSet.rstL * s.cfg.k) _ :=
    ⟨h.enters fun _ => startCommand_idle, rfl, rfl, Nat.zero_add _⟩
  obtain ⟨_, eW, -⟩ := hL.ends (hr.mono (by omega))
  have hW : s.RunsPhase _ (s.timingSet.rstL * s.cfg.k + s.timingSet.pds * s.cfg.k) _ := ⟨eW, rfl, rfl, rfl⟩
  obtain ⟨lv, eS, hlv⟩ := hW.ends (hr.mono (by omega))
  have hS : s.RunsPhase _ N _ := ⟨eS, rfl, rfl, hN.symm⟩
  obtain ⟨_, ⟨t, ht, he⟩, -⟩ := hS.ends hr
  constructor
  · exact fun n => hL.three_phases hW hS (hr.mono N.le_succ) ⟨rfl, rfl, rfl⟩ ⟨rfl, rfl, rfl⟩ ⟨rfl, rfl, rfl⟩
  · refine ⟨t, ht, ?_⟩
    rw [State.busy_def, he]
    refine ⟨rfl, rfl, ?_, rfl, rfl⟩
    change (!lv) = _
    rw [hlv rfl (by omega), Bool.not_not]

/-- Settles O38: two phases and the end of the one slot, whose data bit is the latched one. -/
theorem wrbitTimeline : Obligations.WrbitTimeline := by
  rintro s d c b L N rfl hL hN h
  have hr := h.ready
  refine ⟨fun hs => ?_, ?_⟩
  · rw [hN, hL, ← Nat.add_mul]
    cases d.getLsbD 0 <;> simp [State.timingSet, timing, hs, tStd]
  have hW : s.RunsPhase 0 L _ := ⟨h.enters fun _ => startCommand_idle, rfl, rfl, (Nat.zero_add _).trans hL.symm⟩
  obtain ⟨_, eH, -⟩ := hW.ends (hr.mono (by omega))
  have hH : s.RunsPhase L N _ := ⟨eH, rfl, rfl, hN.symm⟩
  obtain ⟨_, ⟨t, ht, he⟩, -⟩ := hH.ends hr
  constructor
  · intro n hn
    by_cases hnL : n < L
    · obtain ⟨t, ht, hb, hdrive, -, hres⟩ := hW.cycle (hr.mono (by omega)) n.zero_le hnL
      exact ⟨t, ht, hb, hdrive.trans (decide_eq_true hnL).symm, hres⟩
    · obtain ⟨t, ht, hb, hdrive, -, hres⟩ := hH.cycle (hr.mono N.le_succ) (not_lt.1 hnL) hn
      exact ⟨t, ht, hb, hdrive.trans (decide_eq_false hnL).symm, hres⟩
  · refine ⟨t, ht, ?_⟩
    rw [State.busy_def, he]
    exact ⟨rfl, rfl, rfl, rfl, rfl⟩

/-- Settles O39: three phases, the second of which ends in the sample, and the end of the one slot, whose data bit is
that sample. -/
theorem rdbitTimeline : Obligations.RdbitTimeline := by
  intro s d c bit N hN hbit h
  have hr := h.ready
  obtain ⟨hsync, -⟩ := h.inv.syncStages_lt
  refine ⟨fun hs => by simp [hN, State.timingSet, timing, hs, tStd], ?_⟩
  simp only [Nat.add_mul] at hN hbit ⊢
  have hL : s.RunsPhase 0 (s.timingSet.rL * s.cfg.k) _ :=
    ⟨h.enters fun _ => startCommand_idle, rfl, rfl, Nat.zero_add _⟩
  obtain ⟨_, eS, -⟩ := hL.ends (hr.mono (by omega))
  have hS : s.RunsPhase _ (s.timingSet.rL * s.cfg.k + s.timingSet.rS * s.cfg.k) _ := ⟨eS, rfl, rfl, rfl⟩
  obtain ⟨lv, eT, hlv⟩ := hS.ends (hr.mono (by omega))
  obtain rfl : lv = bit := (hlv rfl (by omega)).trans hbit.symm
  have hT : s.RunsPhase _ N _ := ⟨eT, rfl, rfl, hN.symm⟩
  obtain ⟨_, ⟨t, ht, he⟩, -⟩ := hT.ends hr
  constructor
  · exact fun n => hL.three_phases hS hT (hr.mono N.le_succ) ⟨rfl, rfl, rfl⟩ ⟨rfl, rfl, rfl⟩ ⟨rfl, rfl, rfl⟩
  · refine ⟨t, ht, ?_⟩
    rw [State.busy_def, he]
    exact ⟨rfl, rfl, rfl, bitToByte_eq lv, rfl⟩

end Sys2Proof.Machine
end

section
/-! SUPPORT. Single edges of the engine: the acceptance rule (spec/40_timing_engine.md R99), the edges at which the line
does not matter (R102), and reset (R91). -/

namespace Sys2Proof.Machine

/-! ### Acceptance -/

/-- Bit 0 of DATA is bit 8 of the command word (R73, R106). -/
theorem firstBit_dataField (v : Word) : firstBit (dataField v) = v.getLsbD 8 := by
  simp [firstBit, dataField]

/-- The legality test in the fields of the word (R76). -/
theorem legal_iff_fields (v : Word) : legal v = true ↔
    v.extractLsb' 16 16 = 0 ∧ v.extractLsb' 5 3 = 0 ∧ 1 ≤ v.toNat % 16 ∧ v.toNat % 16 ≤ 6 := by
  rw [legal_iff, opField_toNat]
  rfl

/-- Settles O6: the busy check, the legality test, and then the command of each OP, whose operands are the word's
fields. -/
theorem commandAcceptance : Obligations.CommandAcceptance := by
  intro v s
  dsimp only
  cases hb : s.busy with
  | true =>
    rw [command_busy v hb, if_pos (s.toEngine.busy_eq_true.1 hb)]
    rfl
  | false =>
    rw [if_neg (not_not.2 (s.toEngine.busy_eq_false.1 hb))]
    have hfields := legal_iff_fields v
    cases hlegal : legal v with
    | false =>
      rw [command_illegal hlegal hb, if_pos (hfields.not.1 (ne_true_of_eq_false hlegal))]
      rfl
    | true =>
      rw [if_neg (not_not.2 (hfields.1 hlegal))]
      obtain ⟨i, hd⟩ := (legal_iff_decode v).1 hlegal
      obtain ⟨hdata, hcrcen⟩ := decode_operands hd
      rw [command_idle_ok hb hd, (decode_ok hd).2]
      cases i with
      | crcclr d c => exact exec_crcclr_idle hb
      | _ =>
        obtain rfl : _ = dataField v := hdata
        obtain rfl : _ = crcenField v := hcrcen
        refine (startCommand_idle hb).trans ?_
        simp only [firstBit_dataField, State.accept]
        rfl

/-! ### The line -/

/-- The end of a phase reads the line in the two sampling phases only (R97, R102). -/
theorem Engine.phaseEnd_blind {e : Engine} (hW : e.phase ≠ .rstW) (hS : e.phase ≠ .rS) (lv lv' : Bool) (T : TimingSet) :
    e.phaseEnd lv T = e.phaseEnd lv' T := by
  cases hP : e.phase <;> simp only [Engine.phaseEnd, hP]
  case rstW => exact absurd hP hW
  case rS => exact absurd hP hS

/-- An edge that is no sampling edge advances the engine whatever level it sees (R102). -/
theorem State.advance_blind {s : State} (h : s.samples = false) (lv lv' : Bool) :
    s.toEngine.advance s.cfg lv = s.toEngine.advance s.cfg lv' := by
  cases hend : s.phaseEnds with
  | true =>
    have hP : s.phase ≠ .rstW ∧ s.phase ≠ .rS := by simpa [State.samples, hend] using h
    rw [State.advance_of_phaseEnds hend, State.advance_of_phaseEnds hend]
    exact Engine.phaseEnd_blind (e := { s.toEngine with pre := 0 }) hP.1 hP.2 lv lv' _
  | false =>
    rcases s.toEngine.advance_cases s.cfg lv with ⟨hp, ha⟩ | ⟨hp, hu, ha⟩ | ⟨hp, hu, -⟩
    · exact ha.trans (if_pos hp).symm
    · exact ha.trans ((if_neg hp.not_gt).trans (if_pos hu)).symm
    · simp [State.phaseEnds, hp, hu] at hend

theorem State.samples_of_writeSlot {s : State} (h : s.phase = .wL ∨ s.phase = .wH) : s.samples = false := by
  rcases h with h | h <;> simp [State.samples, h]

/-- The host's access acts beside the synchroniser: neither sees the other (R90). -/
theorem exec_shiftSync {i : Instr} {s t : State} (h : exec i s = .next t) (ln : Bool) :
    exec i (s.shiftSync ln) = .next (t.shiftSync ln) := by
  cases hb : s.busy with
  | true =>
    cases (exec_busy i hb).symm.trans h
    exact exec_busy i (s := s.shiftSync ln) hb
  | false =>
    cases i with
    | crcclr d c =>
      cases (exec_crcclr_idle hb).symm.trans h
      exact exec_crcclr_idle (s := s.shiftSync ln) hb
    | _ =>
      cases (startCommand_idle hb).symm.trans h
      exact startCommand_idle (s := s.shiftSync ln) hb

theorem command_shiftSync {v : Word} {s t : State} (h : command v s = .next t) (ln : Bool) :
    command v (s.shiftSync ln) = .next (t.shiftSync ln) := by
  cases hb : s.busy with
  | true =>
    cases (command_busy v hb).symm.trans h
    exact command_busy v (s := s.shiftSync ln) hb
  | false =>
    cases hd : decode v with
    | error e =>
      cases (command_idle_error hb hd).symm.trans h
      exact command_idle_error (s := s.shiftSync ln) hb hd
    | ok i =>
      rw [command_idle_ok hb hd] at h
      exact (command_idle_ok (s := s.shiftSync ln) hb hd).trans (exec_shiftSync h ln)

theorem hostAccess_shiftSync {acc : Access} {s t : State} (h : hostAccess acc s = .next t) (ln : Bool) :
    hostAccess acc (s.shiftSync ln) = .next (t.shiftSync ln) := by
  match acc, h with
  | .none, h | .read _, h => cases h; rfl
  | .write 0 v, h => exact command_shiftSync h ln
  | .write 1 _, h | .write 4 _, h => cases h; rfl
  | .write 2 _, h | .write 3 _, h | .write 5 _, h | .write 6 _, h | .write 7 _, h => cases h; rfl

/-- Settles O36: the two edges differ in the level that enters the synchroniser, which the access does not see, and in
the level the engine sees, which it does not read. -/
theorem lineMattersAtSamplingEdgesOnly : Obligations.LineMattersAtSamplingEdgesOnly := by
  intro acc slv slv' s h
  have hblind : s.samples = false := h.elim id State.samples_of_writeSlot
  obtain ⟨t, ht, -, hcfg, -, -, -, he⟩ := hostAccess_next acc s
  have hshift := hostAccess_shiftSync ht
  cases hb : s.busy with
  | false =>
    rw [edge_idle hb, edge_idle hb, hshift, hshift]
    rfl
  | true =>
    have hedge (slv : Bool) : edge false acc slv s =
        .next ((t.shiftSync (s.line false slv)).advance (s.seen (s.line false slv))) := by
      obtain ⟨u, hu, hedge⟩ := edge_busy_advance acc slv hb
      cases (hshift _).symm.trans hu
      exact hedge
    have hadv : t.toEngine.advance t.cfg (s.seen (s.line false slv)) =
        t.toEngine.advance t.cfg (s.seen (s.line false slv')) := by
      rw [he hb, hcfg]
      exact State.advance_blind hblind _ _
    rw [hedge, hedge]
    exact congrArg (fun e => Host.Outcome.next { t with toEngine := e, sync := [] }) hadv

/-! ### Reset -/

/-- After a reset every register reads as its reset column says: STATUS shows CRCOK alone (R24, R170). -/
theorem State.regRead_toReset (s : State) (i : Fin 8) : s.toReset.regRead i = if i = 1 then 4 else 0 := by
  match i with
  | 1 => exact BitVec.eq_of_toNat_eq s.toReset.status_toNat
  | 0 | 2 | 3 | 4 | 5 | 6 | 7 => rfl

/-- Settles O28: the edge is `RESET_STATE`, which reads as the reset columns. -/
theorem resetEdgeGivesTheResetState : Obligations.ResetEdgeGivesTheResetState := by
  intro acc slv s
  refine ⟨edge_reset acc slv s, fun t h => ?_⟩
  cases (edge_reset acc slv s).symm.trans h
  exact s.regRead_toReset

end Sys2Proof.Machine
end

section
/-! SUPPORT. The timelines of the byte commands (spec/41_byte_codec.md R132, R134, R135): one slot from the edge that
enters it to the edge that ends it, and the chain of eight slots. -/

namespace Sys2Proof.Machine

/-! ### The arithmetic of the slots -/

/-- The model's start of write slot `j` is the sum of R132. -/
theorem writeSlotStart_eq_sum (T : TimingSet) (x : Byte) (j : Nat) : writeSlotStart T x j =
    ((List.range j).map fun i => if x.getLsbD i then T.w1L + T.w1H else T.w0L + T.w0H).sum := by
  induction j with
  | zero => rfl
  | succ j ih => simp [writeSlotStart, writeSlotUs, ih, List.range_succ]

/-- Under `T_STD` a write slot takes 70 microseconds, whatever its bit (R132). -/
theorem writeSlotStart_tStd (x : Byte) (j : Nat) : writeSlotStart tStd x j = 70 * j := by
  induction j with
  | zero => rfl
  | succ j ih =>
    have hslot : writeSlotUs tStd (x.getLsbD j) = 70 := by cases x.getLsbD j <;> rfl
    rw [writeSlotStart, ih, hslot, Nat.mul_succ]

theorem writeSlotStart_mono (T : TimingSet) (x : Byte) : Monotone (writeSlotStart T x) :=
  monotone_nat_of_le_succ fun _ => Nat.le_add_right _ _

theorem State.timingSet_std {s : State} (h : s.speed = false) : s.timingSet = tStd := by
  simp [State.timingSet, timing, h]

theorem nextIdx_ofNat (j : Nat) : nextIdx (Fin.ofNat 8 j) = Fin.ofNat 8 (j + 1) :=
  Fin.ext (by simp [nextIdx, Fin.val_add])

theorem slotBit_ofNat (x : Byte) {j : Nat} (hj : j < 8) : slotBit x (Fin.ofNat 8 j) = x.getLsbD j :=
  congrArg x.getLsbD (Nat.mod_eq_of_lt hj)

/-- Bit `j` shifted in above the bits before it (R135). -/
theorem shiftIn_shiftLeft (x : Byte) {j : Nat} (hj : j < 8) :
    shiftIn (x.getLsbD j) (x <<< (8 - j)) = x <<< (7 - j) := by
  revert x
  interval_cases j <;> decide

/-! ### The engine between the slots of a byte command -/

section
variable {e : Engine} {T : TimingSet} {x : Byte} {j : Nat}

/-- The engine `e` of a byte command just accepted, after the slots of bits 0 to `j - 1` of `x`: the CRC register has
taken them, and a read has them at the top of `sh`. -/
def Engine.bitsDone (x : Byte) (j : Nat) (e : Engine) : Engine :=
  { e with
    bitIdx := Fin.ofNat 8 j
    crc := if e.crcen then crcBits e.crc x j else e.crc
    sh := if e.op.reads then x <<< (8 - j) else e.sh }

theorem Engine.bitsDone_zero (hidx : e.bitIdx = 0) (hsh : e.sh = 0) : e.bitsDone x 0 = e := by
  have hempty : x <<< 8 = 0 := BitVec.shiftLeft_eq_zero le_rfl
  cases e
  cases hidx
  cases hsh
  simp [Engine.bitsDone, crcBits, hempty]

theorem Engine.bitsDone_bitIdx (hj : j < 8) : (e.bitsDone x j).bitIdx.val = j := Nat.mod_eq_of_lt hj

/-- A slot's bit fed and the index moved on, the slot is one of those done (R97, R135). -/
theorem Engine.bitsDone_succ (hj : j < 8) :
    ({ ((e.bitsDone x j).feedCrc (x.getLsbD j)).feedShift (x.getLsbD j) with
        bitIdx := nextIdx (Fin.ofNat 8 j) } : Engine) = e.bitsDone x (j + 1) := by
  have hle : 8 - (j + 1) = 7 - j := by omega
  rw [nextIdx_ofNat]
  cases hc : e.crcen <;> cases hr : e.op.reads <;>
    simp [Engine.bitsDone, Engine.feedCrc, Engine.feedShift, hc, hr, hle, crcBits, shiftIn_shiftLeft x hj]

/-- The phase each slot of a byte command starts with (R131, R133). -/
def Op.lowPhase : Op → Phase
  | .wrbyte => .wL
  | _ => .rL

/-- A slot of either byte command is entered on its DATA bit, which a read slot's durations do not depend on (R97). -/
theorem Engine.nextSlot_lowPhase (T : TimingSet) (e : Engine) : e.nextSlot T =
    ({ e with bitIdx := nextIdx e.bitIdx } : Engine).enter e.op.lowPhase (slotBit e.data (nextIdx e.bitIdx)) T := by
  cases hop : e.op <;> simp only [Engine.nextSlot, hop] <;> rfl

/-- The engine at the edge that enters slot `j` of a byte command (R130). -/
def Engine.byteSlot (T : TimingSet) (x : Byte) (j : Nat) (e : Engine) : Engine :=
  (e.bitsDone x j).enter e.op.lowPhase (slotBit e.data (Fin.ofNat 8 j)) T

/-- The engine at the edge that ends slot `j`, which came to phase `P` (R97). -/
def Engine.slotDone (T : TimingSet) (x : Byte) (j : Nat) (P : Phase) (e : Engine) : Engine :=
  ((e.bitsDone x j).enter P (slotBit e.data (Fin.ofNat 8 j)) T).slotEnd (x.getLsbD j) T

/-- The end of a slot before the last enters the next one (R97, R130). -/
theorem Engine.slotDone_eq_byteSlot (hbyte : e.op.isByte = true) (hj : j < 7) (P : Phase) :
    e.slotDone T x j P = e.byteSlot T x (j + 1) := by
  have hidx : (e.bitsDone x j).bitIdx.val = j := Engine.bitsDone_bitIdx (by omega)
  rcases Engine.slotEnd_cases (x.getLsbD j) T ((e.bitsDone x j).enter P (slotBit e.data (Fin.ofNat 8 j)) T)
    with ⟨-, -, h⟩ | ⟨hend, -⟩
  · rw [Engine.slotDone, h, Engine.nextSlot_lowPhase, Engine.byteSlot, ← Engine.bitsDone_succ (by omega),
      ← nextIdx_ofNat]
    rfl
  · rcases hend with hend | hend
    · exact absurd (hbyte.symm.trans hend) nofun
    · exact absurd (hend.trans_eq hidx) (by omega)

/-- The end of slot 7 finishes the command (R97, R98). -/
theorem Engine.slotDone_seven_idle (e : Engine) (T : TimingSet) (x : Byte) (P : Phase) :
    (e.slotDone T x 7 P).phase = .idle ∧ (e.slotDone T x 7 P).drive = false := by
  rcases Engine.slotEnd_cases (x.getLsbD 7) T ((e.bitsDone x 7).enter P (slotBit e.data (Fin.ofNat 8 7)) T)
    with ⟨-, hidx, -⟩ | ⟨-, h⟩
  · exact absurd hidx (by decide : ¬ (7 : Fin 8).val < 7)
  · rw [Engine.slotDone, h]
    exact ⟨rfl, rfl⟩

/-- The CRC register has taken the slot's bit (R141). -/
theorem Engine.slotDone_crc (e : Engine) (T : TimingSet) (x : Byte) (j : Nat) (P : Phase) :
    (e.slotDone T x j P).crc = if e.crcen then crcBits e.crc x (j + 1) else e.crc := by
  rw [Engine.slotDone, Engine.slotEnd_crc]
  cases hc : e.crcen <;> simp [Engine.bitsDone, hc, crcBits]

theorem Engine.slotDone_ppd (e : Engine) (T : TimingSet) (x : Byte) (j : Nat) (P : Phase) :
    (e.slotDone T x j P).ppd = e.ppd :=
  Engine.slotEnd_ppd _ _ _

/-- The last slot of a read publishes the byte (R135). -/
theorem Engine.slotDone_seven_rdata (hbyte : e.op.isByte = true) (P : Phase) :
    (e.slotDone T x 7 P).rdata = if e.op = .rdbyte then x else e.rdata := by
  have hlast : shiftIn (x.getLsbD 7) (x <<< 1) = x :=
    (shiftIn_shiftLeft x (by decide)).trans (BitVec.shiftLeft_zero x)
  rw [Engine.slotDone, Engine.slotEnd_rdata]
  rcases Op.isByte_iff.1 hbyte with hop | hop
  · simp [Engine.bitsDone, hop]
  · simpa [Engine.bitsDone, hop, Op.reads] using hlast

end

/-! ### One slot -/

section
variable {s : State} {a b L : Nat} {e₀ e₁ : Engine}

/-- At each cycle of a slot from edge `a` to edge `b` the block is busy, pulls the line low for the first `L` cycles
only, and shows the results of the engine `e`. -/
def State.ShowsSlot (s : State) (a L b : Nat) (e : Engine) : Prop :=
  ∀ n, a + n < b → ∃ t, s.After (a + n + 1) t ∧ t.busy = true ∧ t.drive = decide (n < L) ∧
    t.crc = e.crc ∧ t.ppd = e.ppd ∧ t.rdata = e.rdata

theorem State.RunsPhase.showsSlot (h : s.RunsPhase a (a + L) e₀) (hr : s.Ready (a + L))
    (hdrive : e₀.drive = true) : s.ShowsSlot a L (a + L) e₀ := by
  intro n hn
  obtain ⟨t, ht, hb, hd, -, hppd, hcrc, hrdata⟩ := h.cycle hr (Nat.le_add_right a n) hn
  exact ⟨t, ht, hb, by simp [hd, hdrive, Nat.lt_of_add_lt_add_left hn], hcrc, hppd, hrdata⟩

/-- A slot goes on with a phase that has the line released and leaves the results as they were. -/
theorem State.ShowsSlot.released {m : Nat} (h : s.ShowsSlot a L m e₀) (h₁ : s.RunsPhase m b e₁) (hr : s.Ready b)
    (hL : a + L ≤ m) (hdrive : e₁.drive = false)
    (hres : e₁.crc = e₀.crc ∧ e₁.ppd = e₀.ppd ∧ e₁.rdata = e₀.rdata) : s.ShowsSlot a L b e₀ := by
  intro n hn
  rcases Nat.lt_or_ge (a + n) m with hm | hm
  · exact h n hm
  · obtain ⟨t, ht, hb, hd, -, hppd, hcrc, hrdata⟩ := h₁.cycle hr hm hn
    have hnL : ¬ n < L := by omega
    obtain ⟨hcrc', hppd', hrdata'⟩ := hres
    exact ⟨t, ht, hb, by simp [hd, hdrive, hnL], hcrc.trans hcrc', hppd.trans hppd', hrdata.trans hrdata'⟩

end

section
variable {s : State} {d x : Byte} {c : Bool} {j : Nat}

/-- The engine of a WRBYTE as acceptance latches it (R99). -/
abbrev State.wrbyteLatched (s : State) (x : Byte) (c : Bool) : Engine := s.toEngine.latch .wrbyte c x s.speed

/-- The engine of an RDBYTE as acceptance latches it (R99), with the latest sample `m`. -/
abbrev State.rdbyteLatched (s : State) (d : Byte) (c m : Bool) : Engine :=
  { s.toEngine.latch .rdbyte c d s.speed with smp := m }

/-- Slot `j` of a WRBYTE, once entered at its start: two phases, with DATA bit `j` (R131, R132). -/
theorem State.Starts.write_slot (h : s.Starts (.wrbyte x c) (writeSlotStart s.timingSet x 8 * s.cfg.k + 1)) (hj : j < 8)
    (he : s.Enters (writeSlotStart s.timingSet x j * s.cfg.k) ((s.wrbyteLatched x c).byteSlot s.timingSet x j)) :
    s.ShowsSlot (writeSlotStart s.timingSet x j * s.cfg.k)
      ((if x.getLsbD j then s.timingSet.w1L else s.timingSet.w0L) * s.cfg.k)
      (writeSlotStart s.timingSet x (j + 1) * s.cfg.k) ((s.wrbyteLatched x c).bitsDone x j) ∧
    s.Enters (writeSlotStart s.timingSet x (j + 1) * s.cfg.k) ((s.wrbyteLatched x c).slotDone s.timingSet x j .wH) := by
  have hr : s.Ready (writeSlotStart s.timingSet x (j + 1) * s.cfg.k + 1) :=
    h.ready.mono (Nat.succ_le_succ (Nat.mul_le_mul_right _ (writeSlotStart_mono _ _ hj)))
  have hus : writeSlotStart s.timingSet x (j + 1) = writeSlotStart s.timingSet x j +
      dur .wL (x.getLsbD j) s.timingSet + dur .wH (x.getLsbD j) s.timingSet := by
    rw [writeSlotStart, Nat.add_assoc]
    cases x.getLsbD j <;> rfl
  rw [Engine.slotDone]
  rw [hus, Nat.add_mul, Nat.add_mul, ← slotBit_ofNat x hj] at hr ⊢
  have hL : s.RunsPhase _ (_ + dur .wL (slotBit x (Fin.ofNat 8 j)) s.timingSet * s.cfg.k) _ := ⟨he, rfl, rfl, rfl⟩
  obtain ⟨_, eH, -⟩ := hL.ends (hr.mono (by omega))
  have hH : s.RunsPhase _ (_ + dur .wH (slotBit x (Fin.ofNat 8 j)) s.timingSet * s.cfg.k) _ := ⟨eH, rfl, rfl, rfl⟩
  obtain ⟨_, eEnd, -⟩ := hH.ends hr
  have hlow := hL.showsSlot (hr.mono (by omega)) rfl
  exact ⟨hlow.released hH (hr.mono (Nat.le_succ _)) le_rfl rfl ⟨rfl, rfl, rfl⟩, eEnd⟩

/-- Slot `j` of a WRBYTE is entered at its start with the bits before it done (R132). -/
theorem State.Starts.enters_write_slot (h : s.Starts (.wrbyte x c) (writeSlotStart s.timingSet x 8 * s.cfg.k + 1))
    (hj : j < 8) :
    s.Enters (writeSlotStart s.timingSet x j * s.cfg.k) ((s.wrbyteLatched x c).byteSlot s.timingSet x j) := by
  induction j with
  | zero =>
    rw [writeSlotStart, Nat.zero_mul, Engine.byteSlot, Engine.bitsDone_zero rfl rfl]
    exact h.enters fun _ => startCommand_idle
  | succ j ih =>
    rw [← Engine.slotDone_eq_byteSlot rfl (by omega) .wH]
    exact (h.write_slot (by omega) (ih (by omega))).2

/-- Settles O40: each slot is entered at its start with the bits before it done, and the last one finishes. -/
theorem wrbyteTimeline : Obligations.WrbyteTimeline := by
  intro s x c start hstart h
  obtain rfl : start = writeSlotStart s.timingSet x :=
    funext fun j => (hstart j).trans (writeSlotStart_eq_sum _ _ j).symm
  refine ⟨fun hs j _ => ?_, fun j n hj => (h.write_slot hj (h.enters_write_slot hj)).1 n, ?_⟩
  · rw [State.timingSet_std hs, writeSlotStart_tStd]
  · obtain ⟨t, ht, he⟩ := (h.write_slot (j := 7) (by decide) (h.enters_write_slot (by decide))).2
    obtain ⟨hidle, hdrive⟩ := (s.wrbyteLatched x c).slotDone_seven_idle s.timingSet x .wH
    refine ⟨t, ht, ?_⟩
    rw [State.busy_def, he, Engine.slotDone_crc, Engine.slotDone_ppd, Engine.slotDone_seven_rdata rfl]
    exact ⟨(Engine.busy_eq_false _).2 hidle, hdrive, rfl, rfl, rfl⟩

/-- Slot `j` of an RDBYTE, once entered: three phases, the second of which ends in the sample, bit `j` of the byte (R133,
R134). -/
theorem State.Starts.read_slot (h : s.Starts (.rdbyte d c) (8 * readSlotUs s.timingSet * s.cfg.k + 1)) {m : Bool}
    (hj : j < 8) (hx : x.getLsbD j =
      !s.slvAt ((j * readSlotUs s.timingSet + s.timingSet.rL + s.timingSet.rS) * s.cfg.k - s.cfg.syncStages))
    (he : s.Enters (j * readSlotUs s.timingSet * s.cfg.k) ((s.rdbyteLatched d c m).byteSlot s.timingSet x j)) :
    s.ShowsSlot (j * readSlotUs s.timingSet * s.cfg.k) (s.timingSet.rL * s.cfg.k)
      ((j + 1) * readSlotUs s.timingSet * s.cfg.k) ((s.rdbyteLatched d c m).bitsDone x j) ∧
    s.Enters ((j + 1) * readSlotUs s.timingSet * s.cfg.k)
      ((s.rdbyteLatched d c (x.getLsbD j)).slotDone s.timingSet x j .rT) := by
  have hr : s.Ready ((j + 1) * readSlotUs s.timingSet * s.cfg.k + 1) :=
    h.ready.mono (Nat.succ_le_succ (Nat.mul_le_mul_right _ (Nat.mul_le_mul_right _ hj)))
  obtain ⟨hsync, -⟩ := h.inv.syncStages_lt
  have hus : (j + 1) * readSlotUs s.timingSet * s.cfg.k = j * readSlotUs s.timingSet * s.cfg.k +
      s.timingSet.rL * s.cfg.k + s.timingSet.rS * s.cfg.k + s.timingSet.rT * s.cfg.k := by
    rw [readSlotUs]
    ring
  rw [Nat.add_mul, Nat.add_mul] at hx
  rw [hus] at hr ⊢
  have hL : s.RunsPhase _ (_ + s.timingSet.rL * s.cfg.k) _ := ⟨he, rfl, rfl, rfl⟩
  obtain ⟨_, eS, -⟩ := hL.ends (hr.mono (by omega))
  have hS : s.RunsPhase _ (_ + s.timingSet.rS * s.cfg.k) _ := ⟨eS, rfl, rfl, rfl⟩
  obtain ⟨lv, eT, hlv⟩ := hS.ends (hr.mono (by omega))
  obtain rfl : lv = x.getLsbD j := (hlv rfl (by omega)).trans hx.symm
  have hT : s.RunsPhase _ (_ + s.timingSet.rT * s.cfg.k) _ := ⟨eT, rfl, rfl, rfl⟩
  obtain ⟨_, eEnd, -⟩ := hT.ends hr
  have hlow := (hL.showsSlot (hr.mono (by omega)) rfl).released hS (hr.mono (by omega)) le_rfl rfl ⟨rfl, rfl, rfl⟩
  exact ⟨hlow.released hT (hr.mono (Nat.le_succ _)) (by omega) rfl ⟨rfl, rfl, rfl⟩, eEnd⟩

/-- Slot `j` of an RDBYTE is entered after `j` slot lengths with the bits before it sampled (R134, R135). -/
theorem State.Starts.enters_read_slot (h : s.Starts (.rdbyte d c) (8 * readSlotUs s.timingSet * s.cfg.k + 1))
    (hx : ∀ i, i < 8 → x.getLsbD i =
      !s.slvAt ((i * readSlotUs s.timingSet + s.timingSet.rL + s.timingSet.rS) * s.cfg.k - s.cfg.syncStages))
    (hj : j < 8) :
    ∃ m, s.Enters (j * readSlotUs s.timingSet * s.cfg.k) ((s.rdbyteLatched d c m).byteSlot s.timingSet x j) := by
  induction j with
  | zero =>
    refine ⟨s.smp, ?_⟩
    rw [Nat.zero_mul, Nat.zero_mul, Engine.byteSlot, Engine.bitsDone_zero rfl rfl]
    exact h.enters fun _ => startCommand_idle
  | succ j ih =>
    obtain ⟨m, he⟩ := ih (by omega)
    refine ⟨x.getLsbD j, ?_⟩
    rw [← Engine.slotDone_eq_byteSlot rfl (by omega) .rT]
    exact (h.read_slot (by omega) (hx j (by omega)) he).2

/-- Settles O41: each slot is entered with the bits before it sampled, and the last one publishes the byte. -/
theorem rdbyteTimeline : Obligations.RdbyteTimeline := by
  intro s d x c slot hslot hx h
  obtain rfl : slot = readSlotUs s.timingSet := hslot
  refine ⟨fun hs => by rw [State.timingSet_std hs]; rfl, fun j n hj hn => ?_, ?_⟩
  · obtain ⟨m, he⟩ := h.enters_read_slot hx hj
    refine (h.read_slot hj (hx j hj) he).1 n ?_
    rw [Nat.succ_mul, Nat.add_mul]
    exact Nat.add_lt_add_left hn _
  · obtain ⟨m, he⟩ := h.enters_read_slot hx (j := 7) (by decide)
    obtain ⟨t, ht, he⟩ := (h.read_slot (by decide) (hx 7 (by decide)) he).2
    obtain ⟨hidle, hdrive⟩ := (s.rdbyteLatched d c (x.getLsbD 7)).slotDone_seven_idle s.timingSet x .rT
    refine ⟨t, ht, ?_⟩
    rw [State.busy_def, he, Engine.slotDone_crc, Engine.slotDone_ppd, Engine.slotDone_seven_rdata rfl]
    exact ⟨(Engine.busy_eq_false _).2 hidle, hdrive, rfl, rfl, rfl⟩

end

end Sys2Proof.Machine
end

section
/-! SUPPORT. The CRC verifier of spec/42_crc.md: the update of one bit (R140) and CRCCLR (R142). -/

namespace Sys2Proof.Machine

/-! ### The update of one bit -/

/-- The feedback bit `c[0] ^ b` is set when the bit shifted out differs from the data bit (R140). -/
theorem crcFeedback_iff (c : Byte) (b : Bool) : (c.getLsbD 0 ^^ b) = true ↔ ¬(c.toNat % 2 = 1 ↔ b = true) := by
  have hlow : c.getLsbD 0 = true ↔ c.toNat % 2 = 1 := by
    rw [BitVec.getLsbD, Nat.testBit_zero, decide_eq_true_iff]
  rw [← hlow, Bool.xor_iff_ne, ne_eq, Bool.eq_iff_iff]

/-- One shift to the right halves the register (R140). -/
theorem crcShift_toNat (c : Byte) : (c >>> 1).toNat = c.toNat / 2 := by
  rw [BitVec.toNat_ushiftRight, Nat.shiftRight_one]

/-- Settles O49: the shift halves the register, and the feedback bit decides on the polynomial. -/
theorem crcStepIsTheReflectedPolynomial : Obligations.CrcStepIsTheReflectedPolynomial := by
  intro c b
  unfold crcStep
  by_cases hsame : c.toNat % 2 = 1 ↔ b = true
  · rw [if_pos hsame, if_neg (fun hfb => (crcFeedback_iff c b).1 hfb hsame), crcShift_toNat]
  · rw [if_neg hsame, if_pos ((crcFeedback_iff c b).2 hsame), BitVec.toNat_xor, crcShift_toNat]
    rfl

/-! ### CRCCLR -/

/-- What CRC, CRCOK and BUSY read after CRCCLR at an idle block (R142). -/
theorem State.clearCrc_reads {s : State} (h : s.busy = false) :
    s.clearCrc.regRead 3 = 0 ∧ (s.clearCrc.regRead 1).getLsbD 2 = true ∧ (s.clearCrc.regRead 1).getLsbD 0 = false :=
  ⟨rfl, s.clearCrc.status_crcOk, s.clearCrc.status_busy.trans h⟩

/-- Settles O12: while idle CRCCLR is `clearCrc`, whose reads are R142's; while busy it sets OVR as any command does. -/
theorem crcclrClearsTheCrc : Obligations.CrcclrClearsTheCrc := by
  intro d c s
  exact ⟨rfl, fun hidle => ⟨exec_crcclr_idle hidle, State.clearCrc_reads hidle⟩, fun hbusy => exec_busy _ hbusy⟩

end Sys2Proof.Machine
end

section
/-! SUPPORT. The events of spec/60_exceptions.md: how STATUS shows them (R150), what an illegal or a lost command word
leaves of an edge (R151, R152), and what goes first at one edge (R158). -/

namespace Sys2Proof.Machine

/-! ### STATUS -/

@[simp] theorem State.flag_crcOk (ev : Event) (s : State) : (s.flag ev).crcOk = s.crcOk := by
  simp [State.crcOk]

/-- `flag` sets the event's STATUS bit and no other (R150). -/
theorem State.status_flag_toNat (ev : Event) (s : State) :
    (s.flag ev).status.toNat = s.status.toNat ||| 2 ^ ev.code := by
  simp only [State.status_toNat, State.flag_busy, State.flag_toEngine, State.flag_crcOk]
  generalize s.busy = b, s.ppd = p, s.crcOk = c
  cases ev with
  | ill =>
    rw [State.flag_ill_ill, State.flag_ill_ovr]
    generalize s.ill = i, s.ovr = o
    revert b p c i o
    decide
  | ovr =>
    rw [State.flag_ovr_ill, State.flag_ovr_ovr]
    generalize s.ill = i, s.ovr = o
    revert b p c i o
    decide

/-- An event shows in STATUS alone (R150). -/
theorem State.regRead_flag (ev : Event) (s : State) {i : Fin 8} (h : i ≠ 1) :
    (s.flag ev).regRead i = s.regRead i := by
  match i with
  | 1 => contradiction
  | 0 | 2 | 3 | 4 | 5 | 6 | 7 => cases ev <;> rfl

/-- A second event of the same kind changes nothing (R156). -/
theorem State.flag_flag (ev : Event) (s : State) : (s.flag ev).flag ev = s.flag ev := by
  cases ev <;> rfl

theorem busEmpty_status (s : State) : busEmpty s.status = true ↔ s.ppd = false := by
  simp [busEmpty]

theorem crcMismatch_status (s : State) : crcMismatch s.status = true ↔ s.crc ≠ 0 := by
  simp [crcMismatch, State.crcOk, Engine.crcOk]

/-- Settles O22: the two flags by their bit in STATUS, and the two unsticky reports by the bits that show PPD and
CRCOK. -/
theorem eventsAreReportedInStatus : Obligations.EventsAreReportedInStatus := by
  intro s
  exact ⟨s.status_flag_toNat .ill, s.status_flag_toNat .ovr, rfl, rfl, fun ev i => s.regRead_flag ev,
    fun ev => ⟨s.flag_toEngine ev, s.flag_flag ev⟩, busEmpty_status s, crcMismatch_status s⟩

/-! ### Edges whose write starts no command -/

section
variable {slv : Bool} {s : State}

/-- The edge of a busy block, by what its access does (R90). -/
theorem edge_busy_of_access {acc : Access} {t : State} (h : s.busy = true)
    (ht : hostAccess acc (s.shiftSync (s.line false slv)) = .next t) :
    edge false acc slv s = .next (t.advance (s.seen (s.line false slv))) := by
  obtain ⟨u, hu, hedge⟩ := edge_busy_advance acc slv h
  cases ht.symm.trans hu
  exact hedge

/-- A CMD write while busy: OVR, and the engine advances (R152). -/
theorem edge_overrun (v : Word) (h : s.busy = true) : edge false (.write 0 v) slv s =
    .next (((s.shiftSync (s.line false slv)).flag .ovr).advance (s.seen (s.line false slv))) :=
  edge_busy_of_access h (command_busy v h)

/-- An illegal word written while idle: ILL, and the synchroniser shifts (R151). -/
theorem edge_illegal {v : Word} (hidle : s.busy = false) (hlegal : legal v = false) :
    edge false (.write 0 v) slv s = .next ((s.shiftSync (s.line false slv)).flag .ill) :=
  (edge_idle hidle).trans (command_illegal hlegal hidle)

/-- A STATUS write while busy: its flags are cleared, and the engine advances (R156, R158). -/
theorem edge_busy_status (w : Word) (h : s.busy = true) : edge false (.write 1 w) slv s =
    .next (((s.shiftSync (s.line false slv)).clearFlags w).advance (s.seen (s.line false slv))) :=
  edge_busy_of_access h (hostWrite_status w _)

end

/-- Settles O13: `flag .ovr` commutes with `advance`, which neither reads nor writes OVR. -/
theorem commandWhileBusyIsLost : Obligations.CommandWhileBusyIsLost := by
  intro v slv s hbusy
  rw [edge_overrun v hbusy, edge_busy_of_access (acc := .none) hbusy rfl]
  rfl

/-- Settles O14: without the write the edge is the synchroniser's shift, and ILL is no part of the engine. -/
theorem illegalCommandSetsIll : Obligations.IllegalCommandSetsIll := by
  intro v slv s hidle hlegal
  have hedge := edge_illegal (slv := slv) hidle hlegal
  refine ⟨?_, fun t h => ?_⟩
  · rw [hedge, edge_idle hidle]
    rfl
  · cases hedge.symm.trans h
    exact ⟨hidle, rfl⟩

/-! ### Priority -/

/-- A legal word written to CMD while idle sets no flag: it starts a command of some phase, or is CRCCLR (R99, R158). -/
theorem AccessEffect.accepted {v : Word} {s t : State} (h : AccessEffect s (.write 0 v) t) (hidle : s.busy = false)
    (hlegal : legal v = true) :
    t.ill = s.ill ∧ t.ovr = s.ovr ∧ (t.busy = true ∨ t.toEngine = { s.toEngine with crc := 0 }) := by
  cases h with
  | overrun _ hbusy => cases hidle.symm.trans hbusy
  | illegal _ _ hbad => cases hlegal.symm.trans hbad
  | start _ op c d P b _ _ _ howns => exact ⟨rfl, rfl, .inl ((Engine.busy_eq_true _).2 (Op.ne_idle_of_owns howns))⟩
  | crcclr => exact ⟨rfl, rfl, .inr rfl⟩
  | ignored _ _ h0 => exact absurd rfl h0

/-- Settles O15: the write's outcome is the reset, the overrun, the illegal word or the acceptance, one premise each,
and a STATUS write and `advance` write different fields. -/
theorem priorityAtOneEdge : Obligations.PriorityAtOneEdge := by
  intro rst slv v s t h
  refine ⟨?_, ?_, ?_, ?_, fun w u hbusy hu => ?_⟩
  · rintro rfl
    cases (edge_reset _ slv s).symm.trans h
    rfl
  · rintro rfl hbusy
    cases (edge_overrun v hbusy).symm.trans h
    exact ⟨rfl, rfl, rfl⟩
  · rintro rfl hidle hlegal
    cases (edge_illegal hidle hlegal).symm.trans h
    exact ⟨rfl, rfl, rfl⟩
  · rintro rfl hidle hlegal
    exact (hostAccess_effect ((edge_idle hidle).symm.trans h)).accepted hidle hlegal
  · cases (edge_busy_status w hbusy).symm.trans hu
    exact ⟨rfl, rfl, rfl⟩

end Sys2Proof.Machine
end

section
/-! SUPPORT. What the host can rely on in the cycle after its write (spec/70_reset_and_hazards.md): BUSY of the command it
has just issued (R175) and the timing mode it has just written (R179). -/

namespace Sys2Proof.Machine

/-! ### The step of an idle block -/

section
variable {s t : State}

/-- Without reset the step of an idle block is the effect of the host's access (R90). -/
theorem hostAccess_of_step_idle {acc : Access} (hidle : s.busy = false) (hr : s.rstAt 0 = false)
    (ha : s.access = .ok acc) (h : step s = .next t) : hostAccess acc s.sampled = .next t := by
  obtain ⟨acc', -, ha', hedge⟩ := step_next_cases h
  cases ha.symm.trans ha'
  rw [State.rstNow_eq, hr, edge_idle (by simpa using hidle)] at hedge
  exact hedge

/-- Without reset the step of an idle block to which a legal word is presented is `exec` of the word's command (R99). -/
theorem exec_of_step_idle {v : Word} {i : Instr} (hidle : s.busy = false) (hr : s.rstAt 0 = false)
    (ha : s.access = .ok (.write 0 v)) (hd : decode v = .ok i) (h : step s = .next t) :
    exec i s.sampled = .next t :=
  (command_idle_ok (s := s.sampled) hidle hd).symm.trans (hostAccess_of_step_idle hidle hr ha h)

/-! ### BUSY after acceptance -/

/-- An accepted bus command makes the block busy at its acceptance edge (R99). -/
theorem exec_starts_busy {i : Instr} (hidle : s.busy = false) (hbus : ∀ d c, i ≠ .crcclr d c)
    (h : exec i s = .next t) : t.busy = true := by
  cases i with
  | crcclr d c => exact absurd rfl (hbus d c)
  | _ =>
    cases (startCommand_idle hidle).symm.trans h
    rfl

end

/-- Settles O46: the acceptance edge leaves the idle phase, or is the clearing of the CRC register. -/
theorem busyIsVisibleAtOnce : Obligations.BusyIsVisibleAtOnce := by
  intro s t i hstarts hafter
  obtain ⟨v, ha, hd⟩ := hstarts.presents
  have hidle : s.sampled.busy = false := hstarts.idle
  have hexec := exec_of_step_idle hstarts.idle (hstarts.noReset 0 one_pos) ha hd (State.after_one.1 hafter)
  refine ⟨fun hbus => ?_, ?_⟩
  · exact t.status_busy.trans (exec_starts_busy hidle hbus hexec)
  · rintro d c rfl
    cases (exec_crcclr_idle hidle).symm.trans hexec
    obtain ⟨hcrc, hok, hbusy⟩ := State.clearCrc_reads hidle
    exact ⟨hbusy, hcrc, hok⟩

/-! ### A CTRL write and the command after it -/

/-- The edge of a CTRL write is the edge without it and then the write of SPEED (R32, R179). -/
theorem edge_writeCtrl_of_none {s u : State} {slv : Bool} (w : Word) (h : edge false .none slv s = .next u) :
    edge false (.write 4 w) slv s = .next (u.writeCtrl w) := by
  cases hb : s.busy with
  | false =>
    cases (edge_idle hb).symm.trans h
    exact edge_idle hb
  | true =>
    cases (edge_busy_of_access hb rfl).symm.trans h
    exact edge_busy_of_access (acc := .write 4 w) hb rfl

/-- Settles O47: a CTRL write changes SPEED alone, and the next cycle's command is accepted with the SPEED it finds. -/
theorem modeWrittenBeforeACommandIsUsed : Obligations.ModeWrittenBeforeACommandIsUsed := by
  refine ⟨fun s t u w slv ht hu => ?_, fun s u t w v i hidle hr hctrl hu hcmd hd hbus ht => ?_⟩
  · cases ht.symm.trans (edge_writeCtrl_of_none w hu)
    exact ⟨u.writeCtrl_toEngine w, (edge_writeCtrl ht).2⟩
  · have hru : u.rstAt 0 = false := ((step_inputs hu).2.1 0).trans (hr 1 (by decide))
    cases (hostWrite_ctrl w s.sampled).symm.trans (hostAccess_of_step_idle hidle (hr 0 (by decide)) hctrl hu)
    have hidle' : (s.sampled.writeCtrl w).sampled.busy = false := hidle
    have hexec := exec_of_step_idle (s := s.sampled.writeCtrl w) hidle hru hcmd hd ht
    obtain ⟨hspd, hus⟩ := exec_latches_mode hidle' hexec (exec_starts_busy hidle' hbus hexec)
    obtain ⟨hdata, -⟩ := decode_operands hd
    refine ⟨rfl, hspd, ?_⟩
    rw [hus, hdata, ← firstBit_dataField]
    rfl

end Sys2Proof.Machine
end

section
/-! SUPPORT. The command words and the assembler's lines of spec/30_encoding.md (R70 to R79). -/

namespace Sys2Proof

/-- Settles O2: a legal word loses no bit in its command, and a command is read back from its word. -/
theorem decodeAndEncodeAreInverse : Obligations.DecodeAndEncodeAreInverse := by
  intro v i
  refine ⟨encode_of_decode, ?_⟩
  rintro rfl
  exact decode_encode i

/-! ### Lines, commands and words -/

/-- A line is read back from the command it assembles to (R79). -/
theorem asmLine_of_assemble {l : AsmLine} {i : Instr} (h : l.assemble = some i) : i.asmLine = l := by
  cases l with
  | wrbit c b =>
    obtain ⟨hb, h⟩ := Option.ite_none_right_eq_some.1 h
    cases h
    interval_cases b <;> rfl
  | wrbyte c x =>
    obtain ⟨hx, h⟩ := Option.ite_none_right_eq_some.1 h
    cases h
    exact congrArg (AsmLine.wrbyte c) (Nat.mod_eq_of_lt (Nat.lt_succ_of_le hx))
  | _ => cases h; rfl

/-- The line a command is shown as assembles to its canonical form (R77, R79). -/
theorem assemble_asmLine (i : Instr) : i.asmLine.assemble = some i.canon := by
  rcases i with ⟨d, c⟩ | ⟨d, c⟩ | ⟨d, c⟩ | ⟨d, c⟩ | ⟨d, c⟩ | ⟨d, c⟩ <;> revert d c <;> decide

/-- A command and its canonical form are shown as one line (R77, R79). -/
theorem asmLine_canon (i : Instr) : i.canon.asmLine = i.asmLine :=
  asmLine_of_assemble (assemble_asmLine i)

theorem enc_eq_some {l : AsmLine} {v : Word} : l.enc = some v ↔ ∃ i, l.assemble = some i ∧ encode i = v :=
  Option.map_eq_some_iff

theorem disassemble_of_decode {v : Word} {i : Instr} (h : decode v = .ok i) : disassemble v = .line i.asmLine := by
  simp [disassemble, h]

/-- A word that a line writes is shown as that line (R79). -/
theorem disassemble_of_enc {l : AsmLine} {v : Word} (h : l.enc = some v) : disassemble v = .line l := by
  obtain ⟨i, hi, rfl⟩ := enc_eq_some.1 h
  rw [disassemble_of_decode (decode_encode i), asmLine_of_assemble hi]

theorem disassemble_illegal {v : Word} (h : legal v = false) : disassemble v = .word v := by
  cases hd : decode v with
  | ok i => cases (Machine.decode_ok hd).1.symm.trans h
  | error e => simp [disassemble, hd]

/-- The word of WRBIT's line, its operand checked (R79). -/
theorem enc_wrbit (c : Bool) (b : Nat) : (AsmLine.wrbit c b).enc =
    if b ≤ 1 then some (BitVec.ofNat 32 (2 + (if c then 16 else 0) + b * 256)) else none := by
  by_cases hb : b ≤ 1
  · rw [if_pos hb]
    interval_cases b <;> cases c <;> rfl
  · simp [AsmLine.enc, AsmLine.assemble, hb]

/-- The word of WRBYTE's line, its operand checked (R79). -/
theorem enc_wrbyte (c : Bool) (x : Nat) : (AsmLine.wrbyte c x).enc =
    if x ≤ 255 then some (BitVec.ofNat 32 (4 + (if c then 16 else 0) + x * 256)) else none := by
  by_cases hx : x ≤ 255
  · rw [if_pos hx, enc_eq_some]
    refine ⟨.wrbyte (BitVec.ofNat 8 x) c, if_pos hx, BitVec.eq_of_toNat_eq ?_⟩
    rw [encode_toNat]
    cases c <;> simp [Instr.op, Instr.crcen, Instr.data] <;> omega
  · simp [AsmLine.enc, AsmLine.assemble, hx]

/-- A legal word is shown as the line that writes it with its ignored bits dropped (R77, R79). -/
theorem exists_line_of_legal {v : Word} (h : legal v = true) :
    ∃ l : AsmLine, disassemble v = .line l ∧ l.enc = some (v &&& keptBits (opField v)) := by
  obtain ⟨i, hi⟩ := (legal_iff_decode v).1 h
  refine ⟨i.asmLine, disassemble_of_decode hi, enc_eq_some.2 ⟨i.canon, assemble_asmLine i, ?_⟩⟩
  rw [encode_canon, encode_of_decode hi, decode_op hi]

/-- R77's table by the value of OP. -/
theorem keptBits_opField (v : Word) : keptBits (opField v) = match v.toNat % 16 with
    | 1 => 0xFFFF00EF
    | 2 => 0xFFFF01FF
    | 3 => 0xFFFF00FF
    | 4 => 0xFFFFFFFF
    | 5 => 0xFFFF00FF
    | _ => 0xFFFF00EF := by
  rw [← opField_toNat]
  generalize opField v = op
  revert op
  decide

/-- Settles O3: a line and its command determine each other up to the ignored bits, and a legal word's line writes the
word without them. -/
theorem assemblerWritesTheCanonicalWords : Obligations.AssemblerWritesTheCanonicalWords := by
  refine ⟨enc_wrbit, enc_wrbyte, by decide, rfl, rfl, fun l v => disassemble_of_enc, fun v i l hd hl => ?_,
    fun v hlegal => ?_, fun v => disassemble_illegal⟩
  · obtain ⟨j, hj, henc⟩ := enc_eq_some.1 hl
    rw [disassemble_of_decode hd, ← asmLine_of_assemble hj, encode_injective henc, asmLine_canon]
  · obtain ⟨l, hshown, henc⟩ := exists_line_of_legal hlegal
    rw [keptBits_opField] at henc
    exact ⟨l, hshown, henc⟩

/-- Settles O4: each word is the encoding of its command. -/
theorem writtenOutWordsDecode : Obligations.WrittenOutWordsDecode :=
  ⟨decode_encode (.reset 0 false), decode_encode (.wrbit 1 false), decode_encode (.rdbit 0 true),
    decode_encode (.wrbyte 0xCC true), decode_encode (.rdbyte 0 false), decode_encode (.crcclr 0xFF false)⟩

end Sys2Proof
end

section
/-! SUPPORT. How long a command runs: the cycles of the duration table (spec/70_reset_and_hazards.md R182), and the bound
within which every engine becomes idle (spec/60_exceptions.md R160). -/

namespace Sys2Proof.Machine

/-! ### The duration table -/

/-- From its acceptance edge the block is busy for `N` cycles, and idle in the next. -/
def State.BusyFor (s : State) (N : Nat) : Prop :=
  (∀ n, n < N → ∃ t, s.After (n + 1) t ∧ t.busy = true) ∧ ∃ t, s.After (N + 1) t ∧ t.busy = false

/-- Among intervals that begin one at the end of the other, one holds a number below the last end. -/
theorem exists_interval {f : Nat → Nat} (h0 : f 0 = 0) {m n : Nat} (hn : n < f m) :
    ∃ j, j < m ∧ f j ≤ n ∧ n < f (j + 1) := by
  induction m with
  | zero => omega
  | succ m ih =>
    by_cases hm : n < f m
    · obtain ⟨j, hj, hmem⟩ := ih hm
      exact ⟨j, hj.trans m.lt_succ_self, hmem⟩
    · exact ⟨m, m.lt_succ_self, not_lt.1 hm, hn⟩

/-- A command whose slot `j` runs from cycle `f j` to cycle `f (j + 1)` is busy over all its slots. -/
theorem State.busyFor_of_slots {s : State} {f : Nat → Nat} {m : Nat} (h0 : f 0 = 0)
    (hslot : ∀ j n, j < m → f j + n < f (j + 1) → ∃ t, s.After (f j + n + 1) t ∧ t.busy = true)
    (hend : ∃ t, s.After (f m + 1) t ∧ t.busy = false) : s.BusyFor (f m) := by
  refine ⟨fun n hn => ?_, hend⟩
  obtain ⟨j, hj, hle, hlt⟩ := exists_interval h0 hn
  obtain ⟨p, rfl⟩ := Nat.exists_eq_add_of_le hle
  exact hslot j p hj hlt

section
variable {s : State} {d : Byte} {c : Bool}

theorem State.Starts.busyFor_reset
    (h : s.Starts (.reset d c) ((s.timingSet.rstL + s.timingSet.pds + s.timingSet.rstS) * s.cfg.k + 1)) :
    s.BusyFor ((s.timingSet.rstL + s.timingSet.pds + s.timingSet.rstS) * s.cfg.k) := by
  obtain ⟨-, hrun, t, ht, hidle, -⟩ := resetTimeline s d c _ rfl h
  exact ⟨fun n hn => (hrun n hn).imp fun _ ht => ⟨ht.1, ht.2.1⟩, t, ht, hidle⟩

theorem State.Starts.busyFor_wrbit (h : s.Starts (.wrbit d c) (writeSlotUs s.timingSet (d.getLsbD 0) * s.cfg.k + 1)) :
    s.BusyFor (writeSlotUs s.timingSet (d.getLsbD 0) * s.cfg.k) := by
  have hN : writeSlotUs s.timingSet (d.getLsbD 0) * s.cfg.k =
      (if d.getLsbD 0 then s.timingSet.w1L else s.timingSet.w0L) * s.cfg.k +
        (if d.getLsbD 0 then s.timingSet.w1H else s.timingSet.w0H) * s.cfg.k := by
    rw [← Nat.add_mul, writeSlotUs]
    split <;> rfl
  obtain ⟨-, hrun, t, ht, hidle, -⟩ := wrbitTimeline s d c _ _ _ rfl rfl hN h
  exact ⟨fun n hn => (hrun n hn).imp fun _ ht => ⟨ht.1, ht.2.1⟩, t, ht, hidle⟩

theorem State.Starts.busyFor_rdbit (h : s.Starts (.rdbit d c) (readSlotUs s.timingSet * s.cfg.k + 1)) :
    s.BusyFor (readSlotUs s.timingSet * s.cfg.k) := by
  obtain ⟨-, hrun, t, ht, hidle, -⟩ := rdbitTimeline s d c _ _ rfl rfl h
  exact ⟨fun n hn => (hrun n hn).imp fun _ ht => ⟨ht.1, ht.2.1⟩, t, ht, hidle⟩

theorem State.Starts.busyFor_wrbyte (h : s.Starts (.wrbyte d c) (writeSlotStart s.timingSet d 8 * s.cfg.k + 1)) :
    s.BusyFor (writeSlotStart s.timingSet d 8 * s.cfg.k) := by
  obtain ⟨-, hrun, t, ht, hidle, -⟩ := wrbyteTimeline s d c _ (writeSlotStart_eq_sum _ _) h
  refine State.busyFor_of_slots (f := fun j => writeSlotStart s.timingSet d j * s.cfg.k) (Nat.zero_mul _)
    (fun j n hj hn => ?_) ⟨t, ht, hidle⟩
  exact (hrun j n hj hn).imp fun _ ht => ⟨ht.1, ht.2.1⟩

/-- Whatever the slaves send, there is a byte they send. -/
theorem State.Starts.busyFor_rdbyte (h : s.Starts (.rdbyte d c) (8 * readSlotUs s.timingSet * s.cfg.k + 1)) :
    s.BusyFor (8 * readSlotUs s.timingSet * s.cfg.k) := by
  obtain ⟨-, hrun, t, ht, hidle, -⟩ := rdbyteTimeline s d
    (BitVec.ofFnLE fun j : Fin 8 => !s.slvAt ((j * readSlotUs s.timingSet + s.timingSet.rL + s.timingSet.rS) * s.cfg.k
      - s.cfg.syncStages)) c _ rfl (fun j hj => (BitVec.getLsbD_ofFnLE _ j).trans (dif_pos hj)) h
  refine State.busyFor_of_slots (f := fun j => j * readSlotUs s.timingSet * s.cfg.k) (by simp)
    (fun j n hj hn => ?_) ⟨t, ht, hidle⟩
  rw [Nat.succ_mul, Nat.add_mul] at hn
  exact (hrun j n hj (Nat.lt_of_add_lt_add_left hn)).imp fun _ ht => ⟨ht.1, ht.2.1⟩

theorem State.Starts.busyFor_crcclr (h : s.Starts (.crcclr d c) 1) : s.BusyFor 0 := by
  have hidle : s.sampled.busy = false := h.idle
  rw [State.sampled, State.slvNow_eq] at hidle
  exact ⟨fun _ hn => absurd hn (Nat.not_lt_zero _), _,
    State.after_one.2 (h.step_eq.trans (exec_crcclr_idle hidle)), hidle⟩

end

/-- A command presented to an idle block is busy for its duration of the table (R182). -/
theorem State.Starts.busyFor {s : State} {i : Instr} (h : s.Starts i (commandUs s.timingSet i * s.cfg.k + 1)) :
    s.BusyFor (commandUs s.timingSet i * s.cfg.k) := by
  cases i with
  | reset d c => exact h.busyFor_reset
  | wrbit d c => exact h.busyFor_wrbit
  | rdbit d c => exact h.busyFor_rdbit
  | wrbyte d c => exact h.busyFor_wrbyte
  | rdbyte d c => exact h.busyFor_rdbyte
  | crcclr d c =>
    rw [commandUs, Nat.zero_mul] at h ⊢
    exact h.busyFor_crcclr

/-- Settles O42: the timelines of the five bus commands and the one edge of CRCCLR, BUSY being bit 0 of STATUS. -/
theorem busyLastsTheTableDuration : Obligations.BusyLastsTheTableDuration := by
  rintro s i N rfl h
  obtain ⟨hrun, t, ht, hidle⟩ := h.busyFor
  refine ⟨fun n hn => ?_, t, ht, t.status_busy.trans hidle⟩
  obtain ⟨t, ht, hbusy⟩ := hrun n hn
  exact ⟨t, ht, t.status_busy.trans hbusy⟩

/-! ### Every command ends -/

/-- How many phases of its slot an engine has to end before the slot ends, the current one included (R94, R97). -/
def Phase.toSlotEnd : Phase → Nat
  | .idle => 0
  | .rstL | .rL => 3
  | .rstW | .rS | .wL => 2
  | .rstS | .rT | .wH => 1

/-- At most so many phases the command in progress has to end: three for each slot still to come (R97, R130). -/
def Engine.phasesLeft (e : Engine) : Nat := e.phase.toSlotEnd + if e.op.isByte then 3 * (7 - e.bitIdx.val) else 0

/-- At most so many edges until the command in progress ends, where no phase is longer than `M` microseconds: those of
the current phase (R93), and those of the phases after it. -/
def Engine.edgesLeft (M k : Nat) (e : Engine) : Nat := (e.phasesLeft - 1) * (M * k) + (e.us * k - e.pre)

section
variable {cfg : Config} {e : Engine} {M : Nat}

theorem Engine.phasesLeft_le (e : Engine) : e.phasesLeft ≤ 24 := by
  have hphase : e.phase.toSlotEnd ≤ 3 := by cases e.phase <;> decide
  unfold Engine.phasesLeft
  split <;> omega

theorem Engine.phasesLeft_pos (hb : e.busy = true) : 1 ≤ e.phasesLeft := by
  have hphase : 1 ≤ e.phase.toSlotEnd := by
    cases hP : e.phase with
    | idle => simp [hP] at hb
    | _ => decide
  exact hphase.trans (Nat.le_add_right _ _)

/-- The end of a slot leaves fewer slots, or no phase. -/
theorem Engine.slotEnd_phasesLeft (x : Bool) (T : TimingSet) (hP : e.phase.toSlotEnd = 1) :
    (e.slotEnd x T).phasesLeft < e.phasesLeft := by
  rcases e.slotEnd_cases x T with ⟨hbyte, hidx, h⟩ | ⟨-, h⟩
  · have hnext : (nextIdx e.bitIdx).val = e.bitIdx.val + 1 := by
      rw [nextIdx, Fin.val_add_one_of_lt' (by omega)]
    have hlow : e.op.lowPhase.toSlotEnd ≤ 3 := by cases e.op <;> decide
    have hleft : e.phasesLeft = 1 + 3 * (7 - e.bitIdx.val) := by rw [Engine.phasesLeft, hP, if_pos hbyte]
    have hleft' : (e.slotEnd x T).phasesLeft = e.op.lowPhase.toSlotEnd + 3 * (7 - (e.bitIdx.val + 1)) := by
      simp [h, Engine.nextSlot_lowPhase, Engine.phasesLeft, hbyte, hnext]
    omega
  · rw [h]
    exact Nat.add_lt_add_right (hP.symm ▸ one_pos) _

/-- The end of a phase leaves fewer phases (R97). -/
theorem Engine.phaseEnd_phasesLeft (lv : Bool) (T : TimingSet) (hb : e.busy = true) :
    (e.phaseEnd lv T).phasesLeft < e.phasesLeft := by
  cases hP : e.phase <;> simp only [Engine.phaseEnd, hP]
  case idle => simp [hP] at hb
  case wH => exact Engine.slotEnd_phasesLeft _ _ (by rw [hP]; rfl)
  case rT => exact Engine.slotEnd_phasesLeft _ _ (by rw [hP]; rfl)
  all_goals exact Nat.add_lt_add_right (by rw [hP]; exact Nat.lt_succ_self _) _

/-- The edges left are those of at most 24 phases. -/
theorem Engine.edgesLeft_le {k : Nat} (hus : e.us ≤ M) : e.edgesLeft M k ≤ 24 * M * k := by
  have hphases : (e.phasesLeft - 1) * (M * k) ≤ 23 * (M * k) :=
    Nat.mul_le_mul_right _ (Nat.sub_le_sub_right e.phasesLeft_le 1)
  have hcycles : e.us * k ≤ M * k := Nat.mul_le_mul_right k hus
  rw [Engine.edgesLeft, Nat.mul_assoc]
  omega

/-- At an edge of a busy engine that stays busy fewer edges are left (R93). -/
theorem Engine.Inv.advance_edgesLeft (h : e.Inv cfg) (hc : configLegal cfg = true) (lv : Bool) (hb : e.busy = true)
    (hb' : (e.advance cfg lv).busy = true) :
    (e.advance cfg lv).edgesLeft (maxDuration (timing cfg e.spd)) cfg.k <
      e.edgesLeft (maxDuration (timing cfg e.spd)) cfg.k := by
  have hk := ((configLegal_iff cfg).1 hc).1
  obtain ⟨-, hus, -, hpre, -⟩ := h.busy (e.busy_eq_true.1 hb)
  have hcycles : cfg.k ≤ e.us * cfg.k := Nat.le_mul_of_pos_left _ hus
  have hinv' := h.advance (lv := lv) hc (e.busy_eq_true.1 hb)
  obtain ⟨-, -, hmax', -⟩ := hinv'.busy (Engine.busy_eq_true _ |>.1 hb')
  rw [Engine.advance_spd] at hmax'
  rcases e.advance_cases cfg lv with ⟨hp, ha⟩ | ⟨hp, hu, ha⟩ | ⟨hp, hu, ha⟩
  · rw [ha]
    simp only [Engine.edgesLeft, Engine.phasesLeft]
    omega
  · rw [ha]
    simp only [Engine.edgesLeft, Engine.phasesLeft, Nat.sub_mul]
    omega
  · have hless : (e.advance cfg lv).phasesLeft < e.phasesLeft := by
      rw [ha]
      exact Engine.phaseEnd_phasesLeft (e := { e with pre := 0 }) lv _ hb
    have hpos := Engine.phasesLeft_pos hb'
    generalize e.advance cfg lv = e' at *
    generalize maxDuration (timing cfg e.spd) = M at *
    have hphases : (e'.phasesLeft - 1 + 1) * (M * cfg.k) ≤ (e.phasesLeft - 1) * (M * cfg.k) :=
      Nat.mul_le_mul_right _ (by omega)
    have hcycles' : e'.us * cfg.k ≤ M * cfg.k := Nat.mul_le_mul_right _ hmax'
    rw [Nat.succ_mul] at hphases
    unfold Engine.edgesLeft
    omega

end

/-- A step of a busy block leaves it idle, or busy in the same mode with fewer edges left. -/
theorem step_edgesLeft {s t : State} (hinv : s.Inv) (hb : s.busy = true) (h : step s = .next t) :
    t.busy = false ∨ (t.spd = s.spd ∧ t.toEngine.edgesLeft (maxDuration (timing s.cfg s.spd)) s.cfg.k <
      s.toEngine.edgesLeft (maxDuration (timing s.cfg s.spd)) s.cfg.k) := by
  obtain ⟨acc, -, ⟨-, rfl⟩ | ⟨-, hidle, -⟩ | ⟨-, -, u, lv, hu, rfl⟩⟩ := step_effect h
  · exact .inl rfl
  · cases hb.symm.trans hidle
  · have hadv : (u.advance lv).toEngine = s.toEngine.advance s.cfg lv := by
      rw [State.advance_toEngine, hu.toEngine_eq hb, hu.cfg_eq]
      rfl
    obtain ⟨hc, -, -, he⟩ := s.inv_iff.1 hinv
    cases hb' : (u.advance lv).busy with
    | false => exact .inl rfl
    | true =>
      rw [State.busy_def, hadv] at hb'
      rw [hadv]
      exact .inr ⟨Engine.advance_spd _ _ _, he.advance_edgesLeft hc lv hb hb'⟩

/-- A busy engine has an edge left. -/
theorem State.Inv.edgesLeft_pos {s : State} (hinv : s.Inv) (hb : s.busy = true) (M : Nat) :
    0 < s.toEngine.edgesLeft M s.cfg.k := by
  obtain ⟨-, -, -, he⟩ := s.inv_iff.1 hinv
  obtain ⟨-, hus, -, hpre, -⟩ := he.busy (s.toEngine.busy_eq_true.1 hb)
  have hk := hinv.one_le_k
  have hcycles : s.cfg.k ≤ s.us * s.cfg.k := Nat.le_mul_of_pos_left _ hus
  unfold Engine.edgesLeft
  omega

/-- The block is idle within the edges its engine has left. -/
theorem State.Inv.idle_within {s : State} {m : Nat} (hinv : s.Inv) (hh : s.hostOk = true)
    (hm : s.busy = true → s.toEngine.edgesLeft (maxDuration (timing s.cfg s.spd)) s.cfg.k ≤ m) :
    ∃ n t, n ≤ m ∧ s.After n t ∧ t.busy = false := by
  induction m generalizing s with
  | zero =>
    refine ⟨0, s, le_rfl, State.after_zero.2 rfl, ?_⟩
    rw [← Bool.not_eq_true]
    exact fun hb => (hinv.edgesLeft_pos hb _).not_ge (hm hb)
  | succ m ih =>
    cases hb : s.busy with
    | false => exact ⟨0, s, Nat.zero_le _, State.after_zero.2 rfl, hb⟩
    | true =>
      obtain ⟨u, hu, hcfg, hhu, -⟩ := step_goes_on hinv.1 hh
      obtain ⟨n, t, hn, ht, hidle⟩ := ih (everyStepKeepsTheInvariant s u hinv hu) hhu fun hbu => by
        obtain hidle | ⟨hspd, hless⟩ := step_edgesLeft hinv hb hu
        · cases hbu.symm.trans hidle
        · rw [hspd, hcfg]
          exact Nat.le_of_lt_succ (hless.trans_le (hm hb))
      exact ⟨n + 1, t, Nat.succ_le_succ hn, State.after_succ.2 ⟨u, hu, ht⟩, hidle⟩

/-- Settles O43: a bound on the edges left falls at every step of a busy block, and is at most 24 phases of the longest
duration. -/
theorem everyCommandEnds : Obligations.EveryCommandEnds := by
  intro s hinv hh
  refine hinv.idle_within hh fun hb => Engine.edgesLeft_le ?_
  obtain ⟨-, -, -, he⟩ := s.inv_iff.1 hinv
  obtain ⟨-, -, hmax, -⟩ := he.busy (s.toEngine.busy_eq_true.1 hb)
  exact hmax

end Sys2Proof.Machine
end

section
/-! SUPPORT. The register port on two states: a relation that the port's operations keep is kept by every access
(spec/20_memory.md R54, spec/40_timing_engine.md R99). -/

namespace Sys2Proof.Machine

/-- Related states are busy alike, and each operation an access can amount to leads to related states: a flag, the
acceptance of a command into a low phase, CRCCLR, or a write of STATUS or CTRL. -/
structure KeptByPort (R : State → State → Prop) : Prop where
  busy {s s' : State} : R s s' → s'.busy = s.busy
  flag (ev : Event) {s s' : State} : R s s' → R (s.flag ev) (s'.flag ev)
  accept (op : Op) (c : Bool) (d : Byte) (P : Phase) (b : Bool) {s s' : State} :
    drv P = true → s.busy = false → R s s' → R (s.accept op c d P b) (s'.accept op c d P b)
  clearCrc {s s' : State} : s.busy = false → R s s' → R s.clearCrc s'.clearCrc
  clearFlags (v : Word) {s s' : State} : R s s' → R (s.clearFlags v) (s'.clearFlags v)
  writeCtrl (v : Word) {s s' : State} : R s s' → R (s.writeCtrl v) (s'.writeCtrl v)

section
variable {R : State → State → Prop} {s s' : State}

theorem KeptByPort.exec_idle (hR : KeptByPort R) (i : Instr) (hb : s.busy = false) (h : R s s') :
    ∃ t t', exec i s = .next t ∧ exec i s' = .next t' ∧ R t t' := by
  have hb' : s'.busy = false := (hR.busy h).trans hb
  cases i with
  | crcclr d c => exact ⟨_, _, exec_crcclr_idle hb, exec_crcclr_idle hb', hR.clearCrc hb h⟩
  | _ => exact ⟨_, _, startCommand_idle hb, startCommand_idle hb', hR.accept _ _ _ _ _ rfl hb h⟩

theorem KeptByPort.command (hR : KeptByPort R) (v : Word) (h : R s s') :
    ∃ t t', command v s = .next t ∧ command v s' = .next t' ∧ R t t' := by
  cases hb : s.busy with
  | true => exact ⟨_, _, command_busy v hb, command_busy v ((hR.busy h).trans hb), hR.flag .ovr h⟩
  | false =>
    have hb' : s'.busy = false := (hR.busy h).trans hb
    cases hd : decode v with
    | error e => exact ⟨_, _, command_idle_error hb hd, command_idle_error hb' hd, hR.flag .ill h⟩
    | ok i =>
      rw [command_idle_ok hb hd, command_idle_ok hb' hd]
      exact hR.exec_idle i hb h

/-- One access leads from related states to related states. -/
theorem KeptByPort.hostAccess (hR : KeptByPort R) (acc : Access) (h : R s s') :
    ∃ t t', hostAccess acc s = .next t ∧ hostAccess acc s' = .next t' ∧ R t t' := by
  match acc with
  | .none | .read _ => exact ⟨_, _, rfl, rfl, h⟩
  | .write 0 v => exact hR.command v h
  | .write 1 v => exact ⟨_, _, rfl, rfl, hR.clearFlags v h⟩
  | .write 4 v => exact ⟨_, _, rfl, rfl, hR.writeCtrl v h⟩
  | .write 2 _ | .write 3 _ | .write 5 _ | .write 6 _ | .write 7 _ => exact ⟨_, _, rfl, rfl, h⟩

end

end Sys2Proof.Machine
end

section
/-! SUPPORT. The inputs of the line reach no write command (spec/40_timing_engine.md R102): two blocks that differ in the
reset levels and the slave draws to come and in the synchroniser stages go on alike at every edge that takes no sample
and no reset. -/

namespace Sys2Proof.Machine

/-! ### The inputs of the line -/

/-- The state with other reset levels and slave draws to come, and other synchroniser stages. -/
def State.withInputs (rst draws stages : List Bool) (s : State) : State :=
  { s with rstIn := rst, slvIn := draws, sync := stages }

/-- No access sees the inputs of the line (R54, R99). -/
theorem keptByPort_withInputs (rst draws stages : List Bool) :
    KeptByPort fun s s' => s' = s.withInputs rst draws stages where
  busy := by rintro s _ rfl; rfl
  flag ev := by rintro s _ rfl; cases ev <;> rfl
  accept _ _ _ _ _ := by rintro s _ - - rfl; rfl
  clearCrc := by rintro s _ - rfl; rfl
  clearFlags _ := by rintro s _ rfl; rfl
  writeCtrl _ := by rintro s _ rfl; rfl

section
variable {s t : State} {rst draws stages : List Bool}

theorem hostAccess_withInputs {acc : Access} (h : hostAccess acc s = .next t) :
    hostAccess acc (s.withInputs rst draws stages) = .next (t.withInputs rst draws stages) := by
  obtain ⟨u, u', hu, hu', rfl⟩ := (keptByPort_withInputs rst draws stages).hostAccess acc (s := s) rfl
  cases hu.symm.trans h
  exact hu'

/-- An edge that takes no sample lets the difference reach the stages only (R90, R102). -/
theorem edge_withInputs {acc : Access} {slv : Bool} (slv' : Bool) (hblind : s.samples = false)
    (h : edge false acc slv s = .next t) :
    ∃ stages', edge false acc slv' (s.withInputs rst draws stages) = .next (t.withInputs rst draws stages') := by
  cases hb : s.busy with
  | false =>
    rw [edge_idle hb] at h
    rw [edge_idle (s := s.withInputs rst draws stages) hb]
    exact ⟨_, hostAccess_withInputs (s := s.shiftSync (s.line false slv)) h⟩
  | true =>
    obtain ⟨u, hu, hedge⟩ := edge_busy_advance acc slv hb
    cases hedge.symm.trans h
    have hblind' : u.samples = false := by
      have hacc := hostAccess_effect hu
      simpa [State.samples, State.phaseEnds, hacc.toEngine_eq hb, hacc.cfg_eq] using hblind
    have hadv (lv lv' : Bool) : u.advance lv = u.advance lv' :=
      congrArg (fun e => { u with toEngine := e }) (State.advance_blind hblind' lv lv')
    have hrun := edge_busy_of_access (s := s.withInputs rst draws stages) (slv := slv') hb
      (hostAccess_withInputs (s := s.shiftSync (s.line false slv)) hu)
    rw [hadv]
    exact ⟨_, hrun⟩

/-- A step that takes no sample and no reset lets the difference reach the stages only. -/
theorem step_withInputs (hblind : s.samples = false) (hr : s.rstAt 0 = false)
    (hr' : (s.withInputs rst draws stages).rstAt 0 = false) (h : step s = .next t) :
    ∃ stages', step (s.withInputs rst draws stages) = .next (t.withInputs rst.tail draws.tail stages') := by
  obtain ⟨acc, hc, ha, hedge⟩ := step_next_cases h
  rw [State.rstNow_eq, hr] at hedge
  rw [step_of_access (s := s.withInputs rst draws stages) hc ha, State.rstNow_eq, hr']
  exact edge_withInputs (s := s.passCycle) _ hblind hedge

end

/-! ### The command in progress -/

@[simp] theorem Engine.nextSlot_op (T : TimingSet) (e : Engine) : (e.nextSlot T).op = e.op := by
  rcases e.nextSlot_cases T with ⟨-, h⟩ | ⟨-, h⟩ <;> simp [h]

@[simp] theorem Engine.slotEnd_op (x : Bool) (T : TimingSet) (e : Engine) : (e.slotEnd x T).op = e.op := by
  rcases e.slotEnd_cases x T with ⟨-, -, h⟩ | ⟨-, h⟩ <;> simp [h]

@[simp] theorem Engine.phaseEnd_op (lv : Bool) (T : TimingSet) (e : Engine) : (e.phaseEnd lv T).op = e.op := by
  cases h : e.phase <;> simp [Engine.phaseEnd, h]

/-- An edge of a busy engine goes on with the command in progress (R97). -/
@[simp] theorem Engine.advance_op (cfg : Config) (lv : Bool) (e : Engine) : (e.advance cfg lv).op = e.op := by
  rcases e.advance_cases cfg lv with ⟨-, h⟩ | ⟨-, -, h⟩ | ⟨-, -, h⟩ <;> simp [h]

/-- The command sends what it is given, and reads nothing. -/
def Op.writes (op : Op) : Prop := op = .wrbit ∨ op = .wrbyte

/-- A write command takes no sample: it has no sampling phase (R94, R101). -/
theorem State.Inv.samples_of_writes {s : State} (h : s.Inv) (hb : s.busy = true) (hop : s.op.writes) :
    s.samples = false := by
  obtain ⟨-, -, -, he⟩ := s.inv_iff.1 h
  obtain ⟨-, -, -, -, hown, -⟩ := he.busy (s.toEngine.busy_eq_true.1 hb)
  apply State.samples_of_writeSlot
  rcases hop with hop | hop <;> rw [hop] at hown <;> cases hP : s.phase <;> simp [hP, Op.owns] at hown ⊢

/-- At every cycle before its finish a command is busy (R182). -/
theorem State.Starts.busy_at {s t : State} {i : Instr} {n : Nat}
    (h : s.Starts i (commandUs s.timingSet i * s.cfg.k + 1)) (hn : n < commandUs s.timingSet i * s.cfg.k)
    (ht : s.After (n + 1) t) : t.busy = true := by
  obtain ⟨hbusy, -⟩ := h.busyFor
  obtain ⟨u, hu, hb⟩ := hbusy n hn
  rwa [State.after_unique ht hu]

/-- A command whose acceptance latches a write has a write in progress at every cycle before its finish. -/
theorem State.Starts.writes {s t : State} {i : Instr} {n : Nat}
    (h : s.Starts i (commandUs s.timingSet i * s.cfg.k + 1))
    (hi : ∀ u v : State, u.busy = false → exec i u = .next v → v.op.writes)
    (hn : n < commandUs s.timingSet i * s.cfg.k) (ht : s.After (n + 1) t) : t.op.writes := by
  induction n generalizing t with
  | zero => exact hi _ t (by simpa using h.idle) (h.step_eq.symm.trans (State.after_one.1 ht))
  | succ n ih =>
    obtain ⟨u, hu, hut⟩ := State.after_add.1 ht
    have hready : u.Ready 1 := (h.ready.mono (by omega)).after hu
    obtain ⟨v, hv, he⟩ := hready.advances (h.busy_at (by omega) hu)
    rw [State.after_unique hut hv, he, Engine.advance_op]
    exact ih (by omega) hu

/-- A command that writes leads two blocks that differ in the inputs of the line through the same states but for these,
until it has ended. -/
theorem State.Starts.run_withInputs {s : State} {i : Instr} {n : Nat} {rst draws stages : List Bool}
    (h : s.Starts i (commandUs s.timingSet i * s.cfg.k + 1))
    (hi : ∀ u v : State, u.busy = false → exec i u = .next v → v.op.writes)
    (hn : n ≤ commandUs s.timingSet i * s.cfg.k + 1) (hr : (s.withInputs rst draws stages).NoReset n) :
    ∃ t rst' draws' stages', s.After n t ∧
      (s.withInputs rst draws stages).After n (t.withInputs rst' draws' stages') := by
  induction n with
  | zero => exact ⟨s, rst, draws, stages, State.after_zero.2 rfl, State.after_zero.2 rfl⟩
  | succ n ih =>
    obtain ⟨u, rst', draws', stages', hu, hu'⟩ := ih (by omega) (hr.mono n.le_succ)
    have hready : u.Ready 1 := (h.ready.mono hn).after hu
    have hblind : u.samples = false := by
      cases n with
      | zero =>
        cases State.after_zero.1 hu
        simp [State.samples, s.toEngine.busy_eq_false.1 h.idle]
      | succ n =>
        exact hready.inv.samples_of_writes (h.busy_at (by omega) hu) (h.writes hi (by omega) hu)
    obtain ⟨t, ht, -⟩ := step_goes_on hready.inv.1 hready.host
    obtain ⟨stages'', ht'⟩ := step_withInputs hblind (hready.noReset 0 one_pos) (hr.after hu' 0 one_pos) ht
    exact ⟨t, _, _, _, hu.trans (State.after_one.2 ht), hu'.trans (State.after_one.2 ht')⟩

/-- A command presented to a block starts as well in the block to which no reset is to come. -/
theorem State.Starts.withoutReset {s : State} {i : Instr} {n : Nat} (h : s.Starts i n) (m : Nat) :
    (s.withInputs [] s.slvIn s.sync).Starts i m :=
  ⟨h.inv, h.idle, h.host, h.presents, fun _ _ => rfl⟩

theorem exec_writes {i : Instr} {x : Byte} {c : Bool} (hi : i = .wrbyte x c ∨ i = .wrbit x c) (s t : State)
    (hidle : s.busy = false) (h : exec i s = .next t) : t.op.writes := by
  rcases hi with rfl | rfl
  · cases (startCommand_idle hidle).symm.trans h
    exact .inr rfl
  · cases (startCommand_idle hidle).symm.trans h
    exact .inl rfl

/-- Settles O51: both blocks go through the states of the block to which no reset comes, but for the inputs of the
line. -/
theorem slavesCannotDisturbAWrite : Obligations.SlavesCannotDisturbAWrite := by
  rintro s _ x c l i n t t' hi hn h rfl ht ht'
  have hquiet := h.withoutReset (commandUs s.timingSet i * s.cfg.k + 1)
  have hruns (draws : List Bool) := hquiet.run_withInputs (s := s.withInputs [] s.slvIn s.sync) (rst := s.rstIn)
    (draws := draws) (stages := s.sync) (exec_writes hi) hn h.noReset
  obtain ⟨u, _, _, _, hu, hrun⟩ := hruns s.slvIn
  obtain ⟨u', _, _, _, hu', hrun'⟩ := hruns l
  cases State.after_unique hu hu'
  cases State.after_unique ht hrun
  cases State.after_unique ht' hrun'
  exact ⟨rfl, rfl, rfl, rfl, rfl, rfl⟩

end Sys2Proof.Machine
end

section
/-! SUPPORT. The hidden fields that mean nothing while idle (spec/93_implementation_defined.md U16): acceptance overwrites
all of them but the latest sample, and a command reads that only after a sample of its own. -/

namespace Sys2Proof.Machine

/-! ### The latest sample -/

/-- The engine with another latest sample. -/
def Engine.withSmp (m : Bool) (e : Engine) : Engine := { e with smp := m }

section
variable {e : Engine} {m : Bool}

theorem Engine.slotEnd_withSmp (x : Bool) (T : TimingSet) : (e.withSmp m).slotEnd x T = (e.slotEnd x T).withSmp m := by
  simp only [Engine.slotEnd, Engine.nextSlot_lowPhase, apply_ite (Engine.withSmp m)]
  rfl

/-- The end of a phase that does not read the latest sample takes a new one, or leaves the difference to a phase that
does not read it either (R97). -/
theorem Engine.phaseEnd_withSmp (hS : e.phase ≠ .rstS) (hT : e.phase ≠ .rT) (lv : Bool) (T : TimingSet) :
    (e.withSmp m).phaseEnd lv T = e.phaseEnd lv T ∨
    ((e.withSmp m).phaseEnd lv T = (e.phaseEnd lv T).withSmp m ∧
      (e.phaseEnd lv T).phase ≠ .rstS ∧ (e.phaseEnd lv T).phase ≠ .rT) := by
  have hphase : (e.withSmp m).phase = e.phase := rfl
  cases hP : e.phase <;> simp only [Engine.phaseEnd, hphase, hP]
  case rstW => exact .inl rfl
  case rS => exact .inl rfl
  case idle => exact .inr ⟨trivial, nofun, nofun⟩
  case rstS => exact absurd hP hS
  case rT => exact absurd hP hT
  case wH =>
    refine .inr ⟨Engine.slotEnd_withSmp _ T, ?_⟩
    rcases e.slotEnd_phase (slotBit e.data e.bitIdx) T with h | h | h <;> rw [h] <;> exact ⟨nofun, nofun⟩
  all_goals exact .inr ⟨rfl, nofun, nofun⟩

theorem Engine.advance_withSmp (hS : e.phase ≠ .rstS) (hT : e.phase ≠ .rT) (cfg : Config) (lv : Bool) :
    (e.withSmp m).advance cfg lv = e.advance cfg lv ∨
    ((e.withSmp m).advance cfg lv = (e.advance cfg lv).withSmp m ∧
      (e.advance cfg lv).phase ≠ .rstS ∧ (e.advance cfg lv).phase ≠ .rT) := by
  rcases e.advance_cases cfg lv with ⟨hp, ha⟩ | ⟨hp, hu, ha⟩ | ⟨hp, hu, ha⟩ <;> rw [ha]
  · exact .inr ⟨if_pos hp, hS, hT⟩
  · exact .inr ⟨(if_neg hp.not_gt).trans (if_pos hu), hS, hT⟩
  · rw [show (e.withSmp m).advance cfg lv = _ from (if_neg hp.not_gt).trans (if_neg hu.not_gt)]
    exact Engine.phaseEnd_withSmp (e := { e with pre := 0 }) hS hT lv _

end

/-! ### States that agree but in hidden fields -/

/-- The state with the fields that mean nothing while idle taken from another engine (U16). -/
def State.withHidden (e : Engine) (s : State) : State :=
  { s with op := e.op, crcen := e.crcen, spd := e.spd, data := e.data, bitIdx := e.bitIdx, sh := e.sh, smp := e.smp }

/-- The state with another latest sample. -/
def State.withSmp (m : Bool) (s : State) : State := { s with smp := m }

/-- Two states are equal, or idle and different in fields that mean nothing then, or busy and different in the latest
sample, which the phase does not read. -/
inductive State.SameButHidden (s : State) : State → Prop where
  | same : SameButHidden s s
  | idle (e : Engine) (idle : s.busy = false) : SameButHidden s (s.withHidden e)
  | smp (m : Bool) (busy : s.busy = true) (hS : s.phase ≠ .rstS) (hT : s.phase ≠ .rT) : SameButHidden s (s.withSmp m)

namespace State.SameButHidden

variable {s s' t t' : State}

theorem of_smp (m : Bool) (hS : s.phase ≠ .rstS) (hT : s.phase ≠ .rT) : s.SameButHidden (s.withSmp m) := by
  cases hb : s.busy with
  | false => exact .idle (s.toEngine.withSmp m) hb
  | true => exact .smp m hb hS hT

/-- Nothing the host or the line can see differs. -/
theorem seen_alike (h : s.SameButHidden s') : s'.drive = s.drive ∧ (∀ i, s'.regRead i = s.regRead i) ∧
    s'.binds = s.binds ∧ s'.host = s.host := by
  cases h <;> exact ⟨rfl, fun _ => rfl, rfl, rfl⟩

/-- An operation that neither reads nor writes the hidden fields and stays in the phase keeps the agreement. -/
theorem map {f : State → State} (h : s.SameButHidden s') (hphase : (f s).phase = s.phase)
    (hhidden : ∀ e, f (s.withHidden e) = (f s).withHidden e) (hsmp : ∀ m, f (s.withSmp m) = (f s).withSmp m) :
    (f s).SameButHidden (f s') := by
  have hbusy : (f s).busy = s.busy := congrArg (· != Phase.idle) hphase
  cases h with
  | same => exact .same
  | idle e hb => rw [hhidden]; exact .idle e (hbusy.trans hb)
  | smp m hb hS hT => rw [hsmp]; exact .smp m (hbusy.trans hb) (hphase ▸ hS) (hphase ▸ hT)

/-- Acceptance leaves of the difference the latest sample only (R99). -/
theorem keptByPort : KeptByPort State.SameButHidden where
  busy h := by cases h <;> rfl
  flag ev _ _ h := by cases ev <;> exact h.map rfl (fun _ => rfl) fun _ => rfl
  accept op c d P b _ _ hdrv hidle h := by
    cases h with
    | same => exact .same
    | idle e hb => exact .of_smp e.smp (by rintro rfl; cases hdrv) (by rintro rfl; cases hdrv)
    | smp m hb => cases hidle.symm.trans hb
  clearCrc _ h := h.map rfl (fun _ => rfl) fun _ => rfl
  clearFlags v _ _ h := h.map (f := State.clearFlags v) rfl (fun _ => rfl) fun _ => rfl
  writeCtrl v _ _ h := h.map (f := State.writeCtrl v) rfl (fun _ => rfl) fun _ => rfl

theorem advance (h : s.SameButHidden s') (hb : s.busy = true) (lv : Bool) :
    (s.advance lv).SameButHidden (s'.advance lv) := by
  cases h with
  | same => exact .same
  | idle e hidle => cases hb.symm.trans hidle
  | smp m _ hS hT =>
    rcases Engine.advance_withSmp (m := m) hS hT s.cfg lv with h | ⟨h, hS', hT'⟩
    · have hadv : (s.withSmp m).advance lv = s.advance lv := congrArg (fun e => { s with toEngine := e }) h
      rw [hadv]
      exact .same
    · have hadv : (s.withSmp m).advance lv = (s.advance lv).withSmp m := congrArg (fun e => { s with toEngine := e }) h
      rw [hadv]
      exact .of_smp m hS' hT'

/-- The synchroniser shifts alike (R90). -/
theorem shiftSync (h : s.SameButHidden s') (ln : Bool) : (s.shiftSync ln).SameButHidden (s'.shiftSync ln) :=
  h.map (f := State.shiftSync ln) rfl (fun _ => rfl) fun _ => rfl

/-- The host's cycle passes alike (R80). -/
theorem passCycle (h : s.SameButHidden s') : s.passCycle.SameButHidden s'.passCycle :=
  h.map rfl (fun _ => rfl) fun _ => rfl

/-- What an edge takes from a state beside the port is the same. -/
theorem inputs (h : s.SameButHidden s') : s'.access = s.access ∧ s'.rstNow = s.rstNow ∧ s'.slvNow = s.slvNow ∧
    s'.toReset = s.toReset ∧ (∀ rst slv, s'.line rst slv = s.line rst slv) ∧ ∀ ln, s'.seen ln = s.seen ln := by
  cases h <;> exact ⟨rfl, rfl, rfl, rfl, fun _ _ => rfl, fun _ => rfl⟩

/-- One edge keeps the agreement, whatever the inputs (R90). -/
theorem edge {rst slv : Bool} {acc : Access} (h : s.SameButHidden s') (ht : edge rst acc slv s = .next t)
    (ht' : Machine.edge rst acc slv s' = .next t') : t.SameButHidden t' := by
  obtain ⟨-, -, -, hreset, hline, hseen⟩ := h.inputs
  cases rst with
  | true =>
    cases (edge_reset acc slv s).symm.trans ht
    cases (edge_reset acc slv s').symm.trans ht'
    rw [hreset]
    exact .same
  | false =>
    obtain ⟨u, u', hu, hu', hsame⟩ := keptByPort.hostAccess acc (h.shiftSync (s.line false slv))
    rw [← hline] at hu'
    cases hb : s.busy with
    | false =>
      cases ((edge_idle hb).trans hu).symm.trans ht
      cases ((edge_idle ((keptByPort.busy h).trans hb)).trans hu').symm.trans ht'
      exact hsame
    | true =>
      have hub : u.busy = true := by
        rw [State.busy_def, (hostAccess_effect hu).toEngine_eq hb]
        exact hb
      cases (edge_busy_of_access hb hu).symm.trans ht
      cases (edge_busy_of_access ((keptByPort.busy h).trans hb) hu').symm.trans ht'
      rw [hline, hseen]
      exact hsame.advance hub _

theorem step (h : s.SameButHidden s') (ht : step s = .next t) (ht' : Machine.step s' = .next t') :
    t.SameButHidden t' := by
  obtain ⟨haccess, hrst, hslv, -⟩ := h.inputs
  obtain ⟨acc, -, ha, hedge⟩ := step_next_cases ht
  obtain ⟨acc', -, ha', hedge'⟩ := step_next_cases ht'
  cases ha.symm.trans (haccess.symm.trans ha')
  rw [hrst, hslv] at hedge'
  exact h.passCycle.edge hedge hedge'

/-- Runs of one length from states that agree but in hidden fields end in such states. -/
theorem after {n : Nat} (h : s.SameButHidden s') (ht : s.After n t) (ht' : s'.After n t') : t.SameButHidden t' := by
  induction n generalizing s s' with
  | zero =>
    cases State.after_zero.1 ht
    cases State.after_zero.1 ht'
    exact h
  | succ n ih =>
    obtain ⟨u, hu, ht⟩ := State.after_succ.1 ht
    obtain ⟨u', hu', ht'⟩ := State.after_succ.1 ht'
    exact ih (h.step hu hu') ht ht'

end State.SameButHidden

/-- Settles O52: the two blocks agree but in hidden fields at every edge, and these are in nothing the host or the line
can see. -/
theorem idleHiddenFieldsAreNeverSeen : Obligations.IdleHiddenFieldsAreNeverSeen := by
  rintro s _ op c m d sh j smp n t t' hidle rfl ht ht'
  have hsame : s.SameButHidden _ := .idle { s.toEngine with
    op := op, crcen := c, spd := m, data := d, bitIdx := j, sh := sh, smp := smp } hidle
  exact (hsame.after ht ht').seen_alike

end Sys2Proof.Machine
end

section
/-! SUPPORT. The obligations on single steps: what the edge that presents a command gives (spec/40_timing_engine.md R99),
what no access reaches (spec/20_memory.md R62), and what reset and the finish edge leave (spec/70_reset_and_hazards.md). -/

namespace Sys2Proof.Machine

/-! ### Acceptance -/

/-- Settles O7: RESET starts in its low phase, with `crcen` latched 0. -/
theorem resetIsAccepted : Obligations.ResetIsAccepted := fun _ _ _ hidle => startCommand_idle hidle

/-- Settles O8: WRBIT starts in the low phase of its DATA bit 0. -/
theorem wrbitIsAccepted : Obligations.WrbitIsAccepted := fun _ _ _ hidle => startCommand_idle hidle

/-- Settles O9: RDBIT starts in the low phase of a read slot. -/
theorem rdbitIsAccepted : Obligations.RdbitIsAccepted := fun _ _ _ hidle => startCommand_idle hidle

/-- Settles O10: WRBYTE starts in the low phase of its first bit. -/
theorem wrbyteIsAccepted : Obligations.WrbyteIsAccepted := fun _ _ _ hidle => startCommand_idle hidle

/-- Settles O11: RDBYTE starts in the low phase of a read slot. -/
theorem rdbyteIsAccepted : Obligations.RdbyteIsAccepted := fun _ _ _ hidle => startCommand_idle hidle

/-- Settles O16: the step is the edge of a CMD write, which while idle is `exec` and while busy sets OVR, as `exec` does,
before the engine advances. -/
theorem stepRunsThePresentedCommand : Obligations.StepRunsThePresentedCommand := by
  intro s v i hc ha hr hd
  have hstep : step s = edge false (.write 0 v) s.slvNow s.passCycle := by rw [step_of_access hc ha, hr]
  refine ⟨fun hidle => ?_, fun hbusy => ?_⟩
  · rw [hstep, edge_idle (s := s.passCycle) hidle]
    exact command_idle_ok hidle hd
  · exact ⟨_, exec_busy i hbusy, hstep.trans (edge_overrun v hbusy)⟩

/-! ### What no access reaches -/

/-- Settles O20: with any access, none included, the engine advances and the synchroniser shifts. -/
theorem noAccessReachesARunningCommand : Obligations.NoAccessReachesARunningCommand := by
  intro acc slv s hbusy
  obtain ⟨t, ht, he, -, -, hsync⟩ := edge_busy (acc := acc) (slv := slv) hbusy
  obtain ⟨u, hu, he', -, -, hsync'⟩ := edge_busy (acc := .none) (slv := slv) hbusy
  exact ⟨t, u, ht, hu, he.trans he'.symm, hsync.trans hsync'.symm⟩

/-- Settles O44: every step has a next state, in which parameters and host moves are legal again. -/
theorem theBlockNeverStops : Obligations.TheBlockNeverStops := by
  intro s n hc hh
  induction n generalizing s with
  | zero => exact ⟨s, State.after_zero.2 rfl, rfl⟩
  | succ n ih =>
    obtain ⟨u, hu, hcfg, hhu, -⟩ := step_goes_on hc hh
    obtain ⟨t, ht, hcfg'⟩ := ih u (hcfg ▸ hc) hhu
    exact ⟨t, State.after_succ.2 ⟨u, hu, ht⟩, hcfg'.trans hcfg⟩

/-! ### Reset -/

/-- A step with `rst` asserted is `RESET_STATE` (R91). -/
theorem step_of_reset {s t : State} (hr : s.rstNow = true) (h : step s = .next t) : t = s.passCycle.toReset := by
  obtain ⟨acc, -, ⟨-, ht⟩ | ⟨hr', -⟩ | ⟨hr', -⟩⟩ := step_effect h
  · exact ht
  · cases hr.symm.trans hr'
  · cases hr.symm.trans hr'

/-- Settles O29: `rst` masks the drive output, and the step is `RESET_STATE`. -/
theorem resetAbandonsARunningCommand : Obligations.ResetAbandonsARunningCommand := by
  intro s t hr h
  cases step_of_reset hr h
  exact ⟨by rw [hr]; exact Bool.and_false _, rfl, rfl, rfl, rfl, rfl, rfl⟩

/-- Settles O30: STATUS shows CRCOK alone, and every other element has the value of its reset column. -/
theorem resetValues : Obligations.ResetValues :=
  have hread := State.reset.regRead_toReset
  ⟨hread 0, hread 1, hread 2, hread 3, hread 4, rfl, rfl, rfl, rfl, rfl, rfl, rfl, rfl, rfl, rfl, rfl, rfl, rfl⟩

/-- Settles O34: the chip's parameters are legal, and `RESET_STATE` of legal parameters meets the invariant. -/
theorem resetMeetsTheInvariant : Obligations.ResetMeetsTheInvariant :=
  State.toReset_inv (s := State.reset) (by decide)

/-! ### The finish edge -/

/-- The end of a slot goes on with a phase, or releases the line (R97, R98). -/
theorem Engine.slotEnd_drive {e : Engine} {x : Bool} {T : TimingSet} (hidle : (e.slotEnd x T).phase = .idle) :
    (e.slotEnd x T).drive = false := by
  rcases e.slotEnd_cases x T with ⟨-, -, h⟩ | ⟨-, h⟩ <;> rw [h] at hidle ⊢
  · rw [Engine.nextSlot_lowPhase] at hidle
    cases hop : e.op <;> simp [hop, Op.lowPhase] at hidle
  · rfl

/-- An engine that becomes idle has released the line (R98). -/
theorem Engine.phaseEnd_drive {e : Engine} {lv : Bool} {T : TimingSet} (hb : e.busy = true)
    (hidle : (e.phaseEnd lv T).phase = .idle) : (e.phaseEnd lv T).drive = false := by
  cases hP : e.phase <;> simp only [Engine.phaseEnd, hP] at hidle ⊢
  case idle => simp [hP] at hb
  case rstS => rfl
  case wH => exact Engine.slotEnd_drive hidle
  case rT => exact Engine.slotEnd_drive hidle
  all_goals cases hidle

theorem Engine.advance_drive {e : Engine} {cfg : Config} {lv : Bool} (hb : e.busy = true)
    (hidle : (e.advance cfg lv).phase = .idle) : (e.advance cfg lv).drive = false := by
  rcases e.advance_cases cfg lv with ⟨-, h⟩ | ⟨-, -, h⟩ | ⟨-, -, h⟩ <;> rw [h] at hidle ⊢
  · exact absurd hidle (e.busy_eq_true.1 hb)
  · exact absurd hidle (e.busy_eq_true.1 hb)
  · exact Engine.phaseEnd_drive (e := { e with pre := 0 }) hb hidle

/-- Settles O48: reset and `finish` release the line, and a CMD write beside a running engine sets OVR. -/
theorem oneReleasedCycleBetweenCommands : Obligations.OneReleasedCycleBetweenCommands := by
  intro s t hbusy h hidle
  have hdrive : t.drive = false := by
    obtain ⟨acc, -, ⟨-, rfl⟩ | ⟨-, hb, -⟩ | ⟨-, -, u, lv, hu, rfl⟩⟩ := step_effect h
    · rfl
    · cases hbusy.symm.trans hb
    · have hub : u.busy = true := by
        rw [State.busy_def, hu.toEngine_eq hbusy]
        exact hbusy
      exact Engine.advance_drive hub ((Engine.busy_eq_false _).1 hidle)
  refine ⟨hdrive, by simp [State.dqOe, hdrive], fun v hr ha => ?_⟩
  exact (errorFlagsAreSticky s t h).2.2 ⟨hr, .inl ⟨v, ha, hbusy⟩⟩

end Sys2Proof.Machine
end

section
/-! SUPPORT. The verification property of spec/42_crc.md (R145): the update is linear in the register and the data, so
that a message and its CRC cancel. -/

namespace Sys2Proof.Machine

/-- What the feedback bit adds to the shifted register (R140). -/
def crcFeedback (f : Bool) : Byte := if f then 0x8C#8 else 0

theorem crcStep_eq (c : Byte) (b : Bool) : crcStep c b = c >>> 1 ^^^ crcFeedback (c.getLsbD 0 ^^ b) := by
  rw [crcStep, crcFeedback]
  split
  · rfl
  · exact BitVec.xor_zero.symm

/-- The update is linear in the register and the data bit (R140). -/
theorem crcStep_xor (c c' : Byte) (b b' : Bool) : crcStep (c ^^^ c') (b ^^ b') = crcStep c b ^^^ crcStep c' b' := by
  have hfeedback (f f' : Bool) : crcFeedback (f ^^ f') = crcFeedback f ^^^ crcFeedback f' := by
    cases f <;> cases f' <;> rfl
  have hbits : ((c ^^^ c').getLsbD 0 ^^ (b ^^ b')) = ((c.getLsbD 0 ^^ b) ^^ (c'.getLsbD 0 ^^ b')) := by
    simp only [BitVec.getLsbD_xor, Bool.xor_assoc, Bool.xor_left_comm]
  rw [crcStep_eq, crcStep_eq, crcStep_eq, hbits, hfeedback, BitVec.ushiftRight_xor_distrib]
  ac_rfl

theorem crcBits_xor (c c' x x' : Byte) (n : Nat) :
    crcBits (c ^^^ c') (x ^^^ x') n = crcBits c x n ^^^ crcBits c' x' n := by
  induction n with
  | zero => rfl
  | succ n ih => rw [crcBits, crcBits, crcBits, ih, BitVec.getLsbD_xor, crcStep_xor]

/-- Fed its own bits, the register is only shifted: the feedback bit is 0 at every bit. -/
theorem crcBits_self (x : Byte) (n : Nat) : crcBits x x n = x >>> n := by
  induction n with
  | zero => exact (BitVec.ushiftRight_zero x).symm
  | succ n ih =>
    have hbit : (x >>> n).getLsbD 0 = x.getLsbD n := BitVec.getLsbD_ushiftRight x n 0
    rw [crcBits, ih, crcStep_eq, hbit, Bool.xor_self, BitVec.shiftRight_add]
    exact BitVec.xor_zero

/-- No register but 0x00 becomes 0x00 by a bit 0: the feedback sets bit 7, which the shift clears. -/
theorem crcStep_eq_zero {c : Byte} (h : crcStep c false = 0) : c = 0 := by
  revert c; decide

theorem crcBits_eq_zero {c : Byte} {n : Nat} (h : crcBits c 0 n = 0) : c = 0 := by
  induction n with
  | zero => exact h
  | succ n ih =>
    have hbit : (0 : Byte).getLsbD n = false := BitVec.getLsbD_zero
    rw [crcBits, hbit] at h
    exact ih (crcStep_eq_zero h)

/-- A byte leaves 0x00 exactly in the register of its own value. -/
theorem crcByte_eq_zero_iff (c x : Byte) : crcByte c x = 0 ↔ x = c := by
  have hself (x : Byte) : crcByte x x = 0 := (crcBits_self x 8).trans (BitVec.ushiftRight_eq_zero le_rfl)
  refine ⟨fun h => ?_, fun h => h ▸ hself x⟩
  have hlinear : crcByte (c ^^^ x) (x ^^^ x) = crcByte c x ^^^ crcByte x x := crcBits_xor c x x x 8
  rw [h, hself, BitVec.xor_self] at hlinear
  exact (BitVec.xor_eq_zero_iff.1 (crcBits_eq_zero hlinear)).symm

/-- Settles O50: the last byte is fed into the CRC of the message, which cancels with its own value only. -/
theorem crcVerifiesAMessage : Obligations.CrcVerifiesAMessage := by
  intro m r
  have hlast : crcBytes 0 (m ++ [r]) = crcByte (crcBytes 0 m) r := List.foldl_append
  rw [hlast, crcByte_eq_zero_iff]

end Sys2Proof.Machine
end

section
/-! SUPPORT. The accesses of a byte-addressed platform (spec/20_memory.md R51, R52, log entry 10). -/

namespace Sys2Proof.Machine

variable {cfg : Config} {s : State} {accs : List BusAccess} {rest : List HostMove} {a : BusAccess}

/-! ### One platform access -/

theorem BusAccess.toAccess_width (h : a.bytes ≠ 4) : a.toAccess cfg = .error .narrowOrWideAccess := by
  simp [BusAccess.toAccess, h]

/-- A 32-bit access is misaligned where its address or its distance from `BASE` is no multiple of 4. -/
theorem BusAccess.toAccess_misaligned (hw : a.bytes = 4) (h : a.addr % 4 ≠ 0 ∨ ((a.addr : Int) - cfg.base) % 4 ≠ 0) :
    a.toAccess cfg = .error .misalignedAccess := by
  have hmis : a.addr % 4 ≠ 0 ∨ a.addr < cfg.base ∨ (a.addr - cfg.base) % 4 ≠ 0 := by omega
  rw [BusAccess.toAccess, if_neg (not_not.2 hw), if_pos hmis]

/-- The port access of the register at an index. -/
def BusOp.toAccess (i : Fin 8) : BusOp → Access
  | .read _ => .read i
  | .write v => .write i v

/-- Register `i` answers at `BASE + 4*i` (R52, R61). -/
theorem BusAccess.toAccess_register (i : Fin 8) (op : BusOp) (hbase : cfg.base % 4 = 0) :
    (⟨regAddr cfg i, 4, op⟩ : BusAccess).toAccess cfg = .ok (op.toAccess i) := by
  have halign : ¬ (regAddr cfg i % 4 ≠ 0 ∨ regAddr cfg i < cfg.base ∨ (regAddr cfg i - cfg.base) % 4 ≠ 0) := by
    unfold regAddr
    omega
  have hidx : Fin.ofNat 8 ((regAddr cfg i - cfg.base) / 4) = i := by
    have : (regAddr cfg i - cfg.base) / 4 = i.val := by
      unfold regAddr
      omega
    rw [this]
    exact Fin.ofNat_val_eq_self i
  rw [BusAccess.toAccess, if_neg (not_not.2 rfl), if_neg halign, hidx]
  cases op <;> rfl

theorem BusAccess.hits_register (i : Fin 8) (op : BusOp) : (⟨regAddr cfg i, 4, op⟩ : BusAccess).hits cfg = true := by
  have hi := i.isLt
  have hlt : regAddr cfg i < cfg.base + 32 ∧ cfg.base < regAddr cfg i + 4 := by
    unfold regAddr
    omega
  simp [BusAccess.hits, hlt]

/-! ### A cycle's accesses -/

theorem busAccess_none (h : busHits cfg accs = []) : busAccess cfg accs = .ok .none := by
  simp [busAccess, h]

theorem busAccess_one (h : busHits cfg accs = [a]) : busAccess cfg accs = a.toAccess cfg := by
  simp [busAccess, h]

theorem busAccess_many (h : 2 ≤ (busHits cfg accs).length) : busAccess cfg accs = .error .simultaneousAccess := by
  unfold busAccess
  split
  · simp_all
  · simp_all
  · rfl

theorem State.access_bus (h : s.host = .bus accs :: rest) : s.access = busAccess s.cfg accs := by
  rw [State.access, skipIdle_head h nofun]
  rfl

theorem step_bus_error {r : Refusal} (hc : configLegal s.cfg = true) (h : s.host = .bus accs :: rest)
    (hr : busAccess s.cfg accs = .error r) : step s = .refused r :=
  step_of_refusedAccess hc ((State.access_bus h).trans hr)

/-- Settles O27: which accesses touch the block decides between none, one and several, and one is judged by width and
then by alignment. -/
theorem platformCyclesAreNoneOneOrRefused : Obligations.PlatformCyclesAreNoneOneOrRefused := by
  intro s accs rest hc h
  refine ⟨fun hnone => (State.access_bus h).trans (busAccess_none hnone),
    fun hmany => step_bus_error hc h (busAccess_many hmany),
    fun a hone hw => step_bus_error hc h ((busAccess_one hone).trans (BusAccess.toAccess_width hw)),
    fun a hone hw hmis => step_bus_error hc h ((busAccess_one hone).trans (BusAccess.toAccess_misaligned hw hmis))⟩

theorem busHits_singleton (h : a.hits cfg = true) : busHits cfg [a] = [a] :=
  List.filter_cons_of_pos h

theorem busHits_pair {b : BusAccess} (ha : a.hits cfg = true) (hb : b.hits cfg = true) : busHits cfg [a, b] = [a, b] :=
  (List.filter_cons_of_pos ha).trans (congrArg (a :: ·) (busHits_singleton hb))

/-- Settles O26: the access at a register's address is that register's, and the other cases are those of a cycle's one
access or two. -/
theorem platformAccessesAreMappedOrRefused : Obligations.PlatformAccessesAreMappedOrRefused := by
  intro s rest hc
  have hmapped (i : Fin 8) (op : BusOp) (hbase : s.cfg.base % 4 = 0)
      (h : s.host = .bus [⟨regAddr s.cfg i, 4, op⟩] :: rest) : s.access = .ok (op.toAccess i) := by
    rw [State.access_bus h, busAccess_one (busHits_singleton (BusAccess.hits_register i op)),
      BusAccess.toAccess_register i op hbase]
  refine ⟨fun i v => hmapped i (.write v), fun i name => hmapped i (.read name), fun a b ha hb h => ?_,
    fun a ha hw h => ?_, fun a ha hw hmis h => ?_⟩
  · exact step_bus_error hc h (busAccess_many (by rw [busHits_pair ha hb]; rfl))
  · exact step_bus_error hc h ((busAccess_one (busHits_singleton ha)).trans (BusAccess.toAccess_width hw))
  · exact step_bus_error hc h
      ((busAccess_one (busHits_singleton ha)).trans (BusAccess.toAccess_misaligned hw (.inl hmis)))

end Sys2Proof.Machine
end

section
/-! SUPPORT. The host language of spec/30_encoding.md: the cycles and bindings of each move (R80) and the
pseudo-instructions (R81). -/

namespace Sys2Proof.Machine

/-! ### The moves -/

section
variable {s : State} {rest : List HostMove}

/-- The host after a step, whatever the access does to the block: its move is made. -/
theorem step_host {acc : Access} (hc : configLegal s.cfg = true) (ha : s.access = .ok acc) :
    ∃ t, step s = .next t ∧ t.host = s.movesLeft ∧ t.binds = s.bindsAfter := by
  obtain ⟨t, ht, hsur, -⟩ := edge_next s.rstNow acc s.slvNow s.passCycle
  exact ⟨t, (step_of_access hc ha).trans ht, congrArg Surroundings.host hsur, congrArg Surroundings.binds hsur⟩

theorem step_write {i : Fin 8} {v : Word} (hc : configLegal s.cfg = true) (h : s.host = .write i v :: rest) :
    ∃ t, step s = .next t ∧ t.host = rest ∧ t.binds = s.binds := by
  have hk := skipIdle_head h nofun
  have ha : s.access = .ok (.write i v) := by rw [State.access, hk]; rfl
  obtain ⟨t, ht, hhost, hbinds⟩ := step_host hc ha
  exact ⟨t, ht, by simp [hhost, State.movesLeft, hk], hbinds.trans (State.bindsAfter_noRead (by simp [ha]))⟩

/-- A POLL's read binds nothing, and the POLL stays while the block is busy (R80). -/
theorem step_poll (hc : configLegal s.cfg = true) (h : s.host = .poll :: rest) :
    ∃ t, step s = .next t ∧ t.binds = s.binds ∧ t.host = if s.busy then .poll :: rest else rest := by
  have hk := skipIdle_head h nofun
  obtain ⟨t, ht, hhost, hbinds⟩ := step_host (acc := .read 1) hc (by rw [State.access, hk]; rfl)
  exact ⟨t, ht, hbinds.trans (State.bindsAfter_read hk rfl), by rw [hhost, State.movesLeft, hk]⟩

theorem step_idle_succ {n : Nat} (hc : configLegal s.cfg = true) (h : s.host = .idle (n + 1) :: rest) :
    ∃ t, step s = .next t ∧ t.host = .idle n :: rest ∧ t.binds = s.binds := by
  have hk := skipIdle_head h (by simp)
  have ha : s.access = .ok .none := by rw [State.access, hk]; rfl
  obtain ⟨t, ht, hhost, hbinds⟩ := step_host hc ha
  exact ⟨t, ht, by simp [hhost, State.movesLeft, hk], hbinds.trans (State.bindsAfter_noRead (by simp [ha]))⟩

/-- `IDLE 0` is passed over (log entry 13): access, moves left and bindings are those of the next move. -/
theorem step_idle_zero (h : s.host = .idle 0 :: rest) : step s = step { s with host := rest } := by
  have hk : skipIdle s.host = skipIdle rest := by rw [h, skipIdle]
  have hpass : s.passCycle = ({ s with host := rest } : State).passCycle := by
    unfold State.passCycle State.movesLeft State.bindsAfter State.rdataPort State.access
    rw [hk]
    rfl
  have ha : s.access = ({ s with host := rest } : State).access := by
    unfold State.access
    rw [hk]
  unfold step clockEdge
  rw [hpass, ha]
  rfl

end

/-- Settles O53: each move's access, and what it leaves and binds. -/
theorem hostMovesTakeTheirCycles : Obligations.HostMovesTakeTheirCycles := by
  intro s rest hc
  refine ⟨fun i v => step_write hc, fun i name h => step_of_read hc h nofun nofun rfl, fun h => ?_,
    fun n => step_idle_succ hc, step_idle_zero⟩
  rw [show (s.regRead 1).getLsbD 0 = s.busy from s.status_busy]
  exact step_poll hc h

/-- A part of a word is held as a number (R81). -/
theorem bitsOf_eq_ofNat (v : Word) (hi lo : Nat) :
    bitsOf v hi lo = BitVec.ofNat 32 (v.toNat / 2 ^ lo % 2 ^ (hi - lo + 1)) := by
  rw [← bitsOf_toNat, BitVec.ofNat_toNat, BitVec.setWidth_eq]

/-- Settles O54: both are reads, of which the one binds nothing and the other the word and its part. -/
theorem bareReadsAndPartReadsTakeOneCycle : Obligations.BareReadsAndPartReadsTakeOneCycle := by
  intro s rest hc
  refine ⟨fun i h => step_of_read hc h nofun nofun rfl, fun i t name hi lo h => ?_⟩
  rw [← bitsOf_eq_ofNat]
  exact step_of_read hc h nofun nofun rfl

/-! ### The pseudo-instructions -/

/-- A part of one bit is that bit. -/
theorem bitsOf_bit (v : Word) (k : Nat) : (bitsOf v k k).toNat = (v.getLsbD k).toNat := by
  rw [bitsOf_toNat, Nat.sub_self, Nat.zero_add, Nat.pow_one, BitVec.getLsbD, Nat.toNat_testBit]

theorem bitsOf_bit_eq_ite (v : Word) (k : Nat) : bitsOf v k k = if v.getLsbD k then 1 else 0 := by
  apply BitVec.eq_of_toNat_eq
  rw [bitsOf_bit]
  cases v.getLsbD k <;> rfl

theorem bitsOf_lowByte_toNat (v : Word) : (bitsOf v 7 0).toNat = v.toNat % 256 := by
  rw [bitsOf_toNat, pow_zero, Nat.div_one]
  rfl

/-- The low byte of RDATA as it reads is the stored byte (R30, R53). -/
theorem bitsOf_regRead_rdata (s : State) : bitsOf (s.regRead 2) 7 0 = BitVec.ofNat 32 s.rdata.toNat := by
  have hread : (s.regRead 2).toNat = s.rdata.toNat := BitVec.toNat_setWidth_of_le (by decide)
  rw [bitsOf_eq_ofNat, hread, pow_zero, Nat.div_one, Nat.mod_eq_of_lt s.rdata.isLt]

/-- PPD and CRCOK as bits of STATUS (R26, R27). -/
theorem bitsOf_regRead_status (s : State) : bitsOf (s.regRead 1) 1 1 = (if s.ppd then 1 else 0) ∧
    bitsOf (s.regRead 1) 2 2 = if s.crc = 0 then 1 else 0 := by
  rw [bitsOf_bit_eq_ite, bitsOf_bit_eq_ite, show (s.regRead 1).getLsbD 1 = s.ppd from s.status_ppd,
    show (s.regRead 1).getLsbD 2 = (s.crc == 0) from s.status_crcOk]
  simp

/-- Settles O55: the last move is a read of a part, which is PPD, the byte of RDATA, or CRCOK. -/
theorem pseudoInstructionResultsAreBound : Obligations.PseudoInstructionResultsAreBound := by
  intro s m rest hc h
  obtain ⟨hppd, hcrcOk⟩ := bitsOf_regRead_status s
  refine ⟨fun p hm => ?_, fun c x hm => ?_, fun ok hm => ?_⟩
  · obtain rfl : HostMove.readPart 1 "t" p 1 1 = m := Option.some.inj hm
    rw [← hppd]
    exact step_of_read hc h nofun nofun rfl
  · obtain rfl : HostMove.readPart 2 "t" x 7 0 = m := Option.some.inj hm
    rw [← bitsOf_regRead_rdata]
    exact step_of_read hc h nofun nofun rfl
  · obtain rfl : HostMove.readPart 1 "t" ok 2 2 = m := List.head_eq_of_cons_eq hm
    rw [← hcrcOk]
    exact step_of_read hc h nofun nofun rfl

/-- Settles O56: the written words are those of the table, and the bound parts are one bit or the low byte. -/
theorem pseudoInstructionsExpandAsTheTableSays : Obligations.PseudoInstructionsExpandAsTheTableSays :=
  ⟨rfl, rfl, rfl, rfl, fun _ => rfl, fun _ t => ⟨rfl, rfl, bitsOf_bit t 1⟩,
    fun _ t => ⟨rfl, rfl, fun _ => rfl, bitsOf_lowByte_toNat t⟩, fun _ t => ⟨rfl, rfl, bitsOf_bit t 2⟩, rfl⟩

end Sys2Proof.Machine
end
